-- ==== Sys2Proof/Word.lean ====
section
/-! DEFINITION. The plain word types of SEGCAN (00_scope.md R11 to R13). -/

namespace Sys2Proof

/-- A byte is 8 bits (R11). -/
abbrev Byte := BitVec 8

/-- A register is 32 bits wide (10_state.md R21). -/
abbrev Word := BitVec 32

/-- A frame is a byte sequence whose byte 0, when present, is the control byte (R13, R72). -/
abbrev Frame := List Byte

end Sys2Proof
end

