-- ==== Sys2Proof/Syntax.lean ====
section
/-! DEFINITION. The instructions of SEGCAN: one constructor for each row of spec/opcode_table.json. -/

namespace Sys2Proof

/-- The receive state (10_state.md R30): `s0` is ExpectStartOrSingle, `s1` is ExpectContinuation. -/
inductive RxState where
  | s0
  | s1
deriving DecidableEq, Repr

/-- The 21 encoded operations (30_encoding.md R95). -/
inductive Instr where
  /-- OPEN: host command 0x01 (R134). -/
  | cmdOpen
  /-- CLOSE: host command 0x02 (R136). -/
  | cmdClose
  /-- WRITE: host command 0x10 (R96). -/
  | cmdWrite
  /-- READ: host command 0x20 (R110). -/
  | cmdRead
  /-- CMD.RESERVED: every other command code (R84). -/
  | cmdReserved (code : Byte)
  /-- TX.SINGLE: control byte 0x00 (R74, R102). -/
  | txSingle
  /-- TX.START: control byte 1nnnnnnn, `n` the continuation count (R75, R101). -/
  | txStart (n : BitVec 7)
  /-- TX.CONT: control byte 0iiiiiii of a full continuation frame (R77, R101). -/
  | txCont (i : BitVec 7)
  /-- TX.CONT.LAST: control byte 0iiiiiii of the last continuation frame (R77, R102). -/
  | txContLast (i : BitVec 7)
  /-- RX.ZERO_LEN: a delivered frame of length 0, in either state (R113). -/
  | rxZeroLen (st : RxState)
  /-- RX.SINGLE: in S0, control byte 0x00 (R114). -/
  | rxSingle
  /-- RX.MALFORMED: in S0, control byte 0nnnnnnn with `n` not 0 (R115). -/
  | rxMalformed (n : BitVec 7)
  /-- RX.START: in S0, control byte 1nnnnnnn (R116). -/
  | rxStart (n : BitVec 7)
  /-- RX.CONT: in S1, control byte 0iiiiiii equal to ICONT (R117). -/
  | rxCont (i : BitVec 7)
  /-- RX.OUT_OF_SEQ: in S1, any other control byte (R118). -/
  | rxOutOfSeq (ctl : Byte)
  /-- FLT.STATUS: a status message (R140). -/
  | fltStatus (ext : Bool) (id : Word)
  /-- FLT.EXT_MISMATCH: a data message of the other frame format (R141). -/
  | fltExtMismatch (ext : Bool) (id : Word)
  /-- FLT.ID_MISMATCH: a data message of the right format with another identifier (R142). -/
  | fltIdMismatch (ext : Bool) (id : Word)
  /-- FLT.MATCH: a data message of the right format and identifier (R143). -/
  | fltMatch (ext : Bool) (id : Word)
  /-- DEVQ.FETCH: the batch fetch (R138). -/
  | devqFetch
  /-- CANTX.FRAME: the frame transmit (R146). -/
  | cantxFrame
deriving DecidableEq, Repr

/-- The words SEGCAN decodes, by format (30_encoding.md, introduction; R72, R79, R81, R83, R94). -/
inductive Encoded where
  /-- CMD: the 32-bit word written to `CMD` (R22, R83). -/
  | cmd (w : Word)
  /-- SEGTX: a transmitted control byte (R72). -/
  | segTx (ctl : Byte)
  /-- SEGRX: the 10-bit decode word `DW` (R79). -/
  | segRx (dw : BitVec 10)
  /-- CANF: the 34-bit filter word `FW` (R81). -/
  | canf (fw : BitVec 34)
  /-- DEVQ: no bits (R94). -/
  | devq
  /-- CANTX: no bits (R94). -/
  | cantx
deriving DecidableEq, Repr

/-- What a decode compares the word with: `ICONT` (R78), the receive filter (R81), and whether the frame
built is the message's last (`TXN - TXOFF <= TXNB`, R100). -/
structure DecodeCtx where
  iCont : Byte
  rxExt : Bool
  rxId : Word
  txFinal : Bool
deriving DecidableEq, Repr

end Sys2Proof
end

