-- ==== Sys2Proof/WellFormed.lean ====
section
/-! DEFINITION. The checks on an instruction's operands that the spec's encodings make. -/

namespace Sys2Proof

/-- A reserved code is none of the four commands (30_encoding.md R84). -/
def Instr.reservedCodeOk (code : Byte) : Bool :=
  code != 0x01#8 && code != 0x02#8 && code != 0x10#8 && code != 0x20#8

/-- A transmitted start carries a count of 1..127 (R75, R88). -/
def Instr.startCountOk (n : BitVec 7) : Bool := n != 0#7

/-- A full continuation carries an index of 1..126 (R101). -/
def Instr.fullIndexOk (i : BitVec 7) : Bool := i != 0#7 && i != 127#7

/-- A last continuation carries an index of 1..127 (R102). -/
def Instr.lastIndexOk (i : BitVec 7) : Bool := i != 0#7

/-- A malformed frame has `N != 0` (R115). -/
def Instr.malformedOk (n : BitVec 7) : Bool := n != 0#7

/-- An accepted continuation equals ICONT, which is 1..128 in S1 (R78). -/
def Instr.contIndexOk (i : BitVec 7) : Bool := i != 0#7

/-- The operand checks of every instruction. -/
def Instr.wf : Instr → Bool
  | .cmdOpen => true
  | .cmdClose => true
  | .cmdWrite => true
  | .cmdRead => true
  | .cmdReserved code => Instr.reservedCodeOk code
  | .txSingle => true
  | .txStart n => Instr.startCountOk n
  | .txCont i => Instr.fullIndexOk i
  | .txContLast i => Instr.lastIndexOk i
  | .rxZeroLen _ => true
  | .rxSingle => true
  | .rxMalformed n => Instr.malformedOk n
  | .rxStart _ => true
  | .rxCont i => Instr.contIndexOk i
  | .rxOutOfSeq _ => true
  | .fltStatus _ _ => true
  | .fltExtMismatch _ _ => true
  | .fltIdMismatch _ _ => true
  | .fltMatch _ _ => true
  | .devqFetch => true
  | .cantxFrame => true

end Sys2Proof
end

