-- ==== Sys2Proof/Decode.lean ====
section
/-! DEFINITION. The decoders of the four kinds of word (30_encoding.md), total and rejecting by name, and the encoder. -/

namespace Sys2Proof

/-- Why a word is no instruction. -/
inductive DecodeError where
  /-- SEGTX 0x80, a start with count 0, which the transmitter never produces (R88). -/
  | startCountZero
  /-- SEGTX start bit on the message's last frame: TX.START is a non-final frame (R101). -/
  | startWhenFinal
  /-- SEGTX 0x00 on a frame that is not the last: TX.SINGLE is a final frame (R102). -/
  | singleNotFinal
  /-- SEGTX index 127 on a full continuation: index 127 can only be the last frame (R101). -/
  | fullContIndex127
  /-- SEGRX word with NE = 0 and a control byte that is not 0: `ctl` is 0 if L = 0 (R79). -/
  | ctlWithoutByte
deriving DecidableEq, Repr

/-- The low seven bits `N` of a control byte (R72). -/
def ctlLow (ctl : Byte) : BitVec 7 := ctl.extractLsb' 0 7

/-- The start bit `S` of a control byte (R72). -/
def ctlStart (ctl : Byte) : Bool := ctl.getLsbD 7

/-- A control byte with the start bit set (R75). -/
def startCtl (n : BitVec 7) : Byte := 1#1 ++ n

/-- A control byte with the start bit clear (R74, R77). -/
def contCtl (i : BitVec 7) : Byte := 0#1 ++ i

/-- The command a code names (R83, R84). -/
def decodeCode (code : Byte) : Instr :=
  if code = 0x01#8 then .cmdOpen
  else if code = 0x02#8 then .cmdClose
  else if code = 0x10#8 then .cmdWrite
  else if code = 0x20#8 then .cmdRead
  else .cmdReserved code

/-- Bits 7:0 of a `CMD` word are the code and bits 31:8 are ignored (10_state.md R22). -/
def decodeCmd (w : Word) : Instr := decodeCode (w.extractLsb' 0 8)

/-- A transmitted control byte, with whether its frame is the message's last (R100, R88). -/
def decodeTx (final : Bool) (ctl : Byte) : Except DecodeError Instr :=
  if ctlStart ctl then
    if final then .error .startWhenFinal
    else if ctlLow ctl = 0#7 then .error .startCountZero
    else .ok (.txStart (ctlLow ctl))
  else if ctl = 0x00#8 then
    if final then .ok .txSingle else .error .singleNotFinal
  else if final then .ok (.txContLast (ctlLow ctl))
  else if ctlLow ctl = 127#7 then .error .fullContIndex127
  else .ok (.txCont (ctlLow ctl))

/-- The bit that shows a receive state in `DW` and in `RXFSM` (R29, R79). -/
def RxState.bit : RxState → BitVec 1
  | .s0 => 0#1
  | .s1 => 1#1

/-- The receive state a bit of `DW` shows (R79). -/
def RxState.ofBit (b : Bool) : RxState := if b then .s1 else .s0

/-- The decode class of a non-empty frame in a receive state (R78). -/
def decodeCtl (iCont : Byte) (st : RxState) (ctl : Byte) : Instr :=
  match st with
  | .s0 =>
    if ctlStart ctl then .rxStart (ctlLow ctl)
    else if ctl = 0x00#8 then .rxSingle
    else .rxMalformed (ctlLow ctl)
  | .s1 =>
    if ctlStart ctl = false ∧ ctl = iCont then .rxCont (ctlLow ctl)
    else .rxOutOfSeq ctl

/-- The decode word: bit 9 RXSTATE, bit 8 NE, bits 7:0 the control byte (R79). -/
def dw (st : RxState) (ne : Bool) (ctl : Byte) : BitVec 10 := st.bit ++ BitVec.ofBool ne ++ ctl

/-- The class of a decode word (R78, R79). -/
def decodeRx (iCont : Byte) (w : BitVec 10) : Except DecodeError Instr :=
  let st := RxState.ofBit (w.getLsbD 9)
  let ctl := w.extractLsb' 0 8
  if w.getLsbD 8 then .ok (decodeCtl iCont st ctl)
  else if ctl = 0x00#8 then .ok (.rxZeroLen st)
  else .error .ctlWithoutByte

/-- The filter word: bit 33 status, bit 32 ext, bits 31:0 id (R81). -/
def fw (status ext : Bool) (id : Word) : BitVec 34 := BitVec.ofBool status ++ BitVec.ofBool ext ++ id

/-- The class of a filter word under the configured filter (R81, R139). -/
def decodeFlt (rxExt : Bool) (rxId : Word) (w : BitVec 34) : Instr :=
  let ext := w.getLsbD 32
  let id := w.extractLsb' 0 32
  if w.getLsbD 33 then .fltStatus ext id
  else if ext ≠ rxExt then .fltExtMismatch ext id
  else if id ≠ rxId then .fltIdMismatch ext id
  else .fltMatch ext id

/-- The decoder: total on every word of every format. -/
def decode (c : DecodeCtx) : Encoded → Except DecodeError Instr
  | .cmd w => .ok (decodeCmd w)
  | .segTx ctl => decodeTx c.txFinal ctl
  | .segRx w => decodeRx c.iCont w
  | .canf w => .ok (decodeFlt c.rxExt c.rxId w)
  | .devq => .ok .devqFetch
  | .cantx => .ok .cantxFrame

/-- The encoder: the word of an instruction, from the encoding tables of 30_encoding.md (R72 to R83). -/
def encode : Instr → Encoded
  | .cmdOpen => .cmd 0x01#32
  | .cmdClose => .cmd 0x02#32
  | .cmdWrite => .cmd 0x10#32
  | .cmdRead => .cmd 0x20#32
  | .cmdReserved code => .cmd (0#24 ++ code)
  | .txSingle => .segTx 0x00#8
  | .txStart n => .segTx (startCtl n)
  | .txCont i => .segTx (contCtl i)
  | .txContLast i => .segTx (contCtl i)
  | .rxZeroLen st => .segRx (dw st false 0x00#8)
  | .rxSingle => .segRx (dw .s0 true 0x00#8)
  | .rxMalformed n => .segRx (dw .s0 true (contCtl n))
  | .rxStart n => .segRx (dw .s0 true (startCtl n))
  | .rxCont i => .segRx (dw .s1 true (contCtl i))
  | .rxOutOfSeq ctl => .segRx (dw .s1 true ctl)
  | .fltStatus ext id => .canf (fw true ext id)
  | .fltExtMismatch ext id => .canf (fw false ext id)
  | .fltIdMismatch ext id => .canf (fw false ext id)
  | .fltMatch ext id => .canf (fw false ext id)
  | .devqFetch => .devq
  | .cantxFrame => .cantx

/-- The condition beside the bits under which a word is this instruction (the table's `condition`;
R78, R81, R100). -/
def DecodeCtx.fits (c : DecodeCtx) : Instr → Bool
  | .cmdOpen => true
  | .cmdClose => true
  | .cmdWrite => true
  | .cmdRead => true
  | .cmdReserved _ => true
  | .txSingle => c.txFinal
  | .txStart _ => !c.txFinal
  | .txCont _ => !c.txFinal
  | .txContLast _ => c.txFinal
  | .rxZeroLen _ => true
  | .rxSingle => true
  | .rxMalformed _ => true
  | .rxStart _ => true
  | .rxCont i => contCtl i == c.iCont
  | .rxOutOfSeq ctl => ctlStart ctl || ctl != c.iCont
  | .fltStatus _ _ => true
  | .fltExtMismatch ext _ => ext != c.rxExt
  | .fltIdMismatch ext id => ext == c.rxExt && id != c.rxId
  | .fltMatch ext id => ext == c.rxExt && id == c.rxId
  | .devqFetch => true
  | .cantxFrame => true

/-- The context in which a bare word of the opcode table is read: the filter as reset leaves it,
ICONT equal to an index the word carries, and a frame that is the last one for the control bytes
0x00 and 0x7F (log entry 6). -/
def tableCtx (ctl : Byte) : DecodeCtx where
  iCont := if ctlStart ctl ∨ ctl = 0x00#8 then 0x01#8 else ctl
  rxExt := false
  rxId := 0#32
  txFinal := ctl = 0x00#8 ∨ ctl = 0x7F#8

/-- The instruction of an 8-bit table word. CMD and SEGTX rows share these words: the four commands
come first, then the control bytes the transmitter produces, then the reserved codes (log entry 6). -/
def decodeTableByte (b : Byte) : Instr :=
  match decodeCode b with
  | .cmdReserved code =>
    match decodeTx (tableCtx b).txFinal b with
    | .ok i => i
    | .error _ => .cmdReserved code
  | i => i

/-- The instruction of a word of spec/opcode_table.json, its format told by its width (log entry 6). -/
def decodeTableWord (nbits w : Nat) : Option Instr :=
  if nbits = 0 then some .devqFetch
  else if nbits ≤ 8 then if w < 2 ^ 8 then some (decodeTableByte (BitVec.ofNat 8 w)) else none
  else if nbits ≤ 16 then
    if w < 2 ^ 10 then (decode (tableCtx (BitVec.ofNat 8 w)) (.segRx (BitVec.ofNat 10 w))).toOption else none
  else if nbits ≤ 32 then if w < 2 ^ 32 then some (decodeCmd (BitVec.ofNat 32 w)) else none
  else if nbits ≤ 40 then
    if w < 2 ^ 34 then (decode (tableCtx 0#8) (.canf (BitVec.ofNat 34 w))).toOption else none
  else none

end Sys2Proof
end

