-- ==== Sys2Proof/Config.lean ====
section
/-! DEFINITION. The implementation parameters of SEGCAN (00_scope.md R5). -/

namespace Sys2Proof

/-- `P_DEVW`: the device payload width in bytes (R5, decision D3). -/
def Config.payloadWidth : Nat := 8

/-- `BATCH`: the most CAN messages one device read delivers (R5, R8). -/
def Config.batch : Nat := 64

/-- `MAXCONT`: the largest continuation count or index (R5, R9). -/
def Config.maxCont : Nat := 127

/-- `MSGCAP`: the bytes of TXBUF and of RXBUF (R5, R10). -/
def Config.msgCap : Nat := 896

/-- `BASE`: the bus address of the register block, an OPEN parameter (R5, R58).
It has no value in the model: log entry 8. -/
opaque Config.base : Nat

/-- The block occupies 4 KiB at `BASE` (R21): the block offset a bus address selects, if it selects the block. -/
def Config.blockOffset (addr : Nat) : Option (BitVec 12) :=
  if Config.base ≤ addr ∧ addr < Config.base + 4096 then some (BitVec.ofNat 12 (addr - Config.base)) else none

end Sys2Proof
end

