-- ==== Sys2Proof/Machine/State.lean ====
section
/-! DEFINITION. The state of SEGCAN (10_state.md R20), what may move it, how a step can stop, and reset (R44). -/

namespace Sys2Proof.Machine

/-- The bytes of TXBUF and RXBUF that hold a value, keyed by block offset (20_memory.md R47, R49, R50).
A byte that is not listed is unwritten (R51). -/
abbrev Memory := List Host.Cell

/-- The canonical form: offsets strictly rising, so equal memories are equal lists. -/
abbrev Memory.wf (m : Memory) : Prop := m.Pairwise (fun x y => x.1 < y.1)

/-- The two message buffers (R49, R50). -/
inductive Buf where
  | tx
  | rx
deriving DecidableEq, Repr

/-- The result codes of a channel (30_encoding.md R85); codes 9..15 are never produced (R86). -/
inductive Res where
  | none
  | ok
  | notOpen
  | tooLong
  | devReadErr
  | emptyBatch
  | devWriteErr
  | openFail
  | closeFail
deriving DecidableEq, Repr

/-- The three command channels (R14). -/
inductive Channel where
  | ctl
  | tx
  | rx
deriving DecidableEq, Repr

/-- The flag names of a status message (R80); SEGCAN reads none of them. Those of a transmitted message: log entry 17. -/
structure StatusFlags where
  errorActive : Bool
  errorPassive : Bool
  busOff : Bool
deriving DecidableEq, Repr

/-- A CAN message (R80). Its field `len` is the length of `data`. -/
structure CanMsg where
  id : Word
  ext : Bool
  status : Bool
  sflags : StatusFlags
  data : List Byte
deriving DecidableEq, Repr

/-- A device's answer to DevOpen, DevClose or DevWrite (R132). -/
inductive Answer where
  | ok
  | err
deriving DecidableEq, Repr

/-- A device's answer to DevRead (R132). -/
inductive ReadAnswer where
  | err
  | batch (ms : List CanMsg)
deriving DecidableEq, Repr

/-- An answered device request, with its answer (R132). -/
inductive DevEvent where
  | open_ (a : Answer)
  | close (a : Answer)
  | read (a : ReadAnswer)
  | write (m : CanMsg) (a : Answer)
deriving DecidableEq, Repr

/-- The direction of a trace event (R93). -/
inductive TraceDir where
  | tx
  | rx
deriving DecidableEq, Repr

/-- The kind of a trace event; `unknown` is `??` (R93). -/
inductive TraceKind where
  | single
  | start
  | cont
  | unknown
deriving DecidableEq, Repr

/-- A trace event: direction, kind, raw frame bytes (R93). -/
structure TraceEvent where
  dir : TraceDir
  kind : TraceKind
  bytes : Frame
deriving DecidableEq, Repr

/-- A host access by direction and width (R55, R91). -/
inductive Access where
  | r8
  | r16
  | r32
  | w8 (v : Byte)
  | w16 (v : BitVec 16)
  | w32 (v : Word)
deriving DecidableEq, Repr

/-- The data a host read returns, by its width (R91). -/
inductive BusData where
  | byte (v : Byte)
  | word (v : Word)
deriving DecidableEq, Repr

/-- One move of one agent (00_scope.md R15, R16). An engine's move carries the answer the device gives to the
request the engine makes in it; `none` says that the device withholds its answer (R132). -/
inductive Turn where
  /-- The host accesses a block offset (R91). -/
  | host (off : BitVec 12) (acc : Access)
  /-- The host accesses a bus address (R21, R58). -/
  | bus (addr : Nat) (acc : Access)
  /-- The CTL engine's move. -/
  | ctl (a : Option Answer)
  /-- The TX engine's move. -/
  | tx (a : Option Answer)
  /-- The RX engine's move. -/
  | rx (a : Option ReadAnswer)
  /-- The reset input is asserted (R174). -/
  | reset
deriving DecidableEq, Repr

/-- Why the machine stops with a fault: the bus errors of 60_exceptions.md R157, the unwritten-message fault of
40_seg_write.md R97, and two bounds of the engines' own buffer accesses. A fault is safe: nothing is proved of
what a part does after it (R156). -/
inductive Fault where
  /-- A host access at a reserved offset (R157, R21). Safe. -/
  | reservedOffset
  /-- A host access of a width or alignment the offset does not take (R157, R55). Safe. -/
  | badWidth
  /-- A host write to a read-only register or to RXBUF (R157, R21). Safe. -/
  | readOnly
  /-- A host write to TXBUF while `TX_BUSY = 1` (R157, R70). Safe. -/
  | txBufBusy
  /-- A host read of RXBUF while `RX_BUSY = 1` (R157, R71). Safe. -/
  | rxBufBusy
  /-- A host read that reaches an unwritten byte (R157, R51). Safe. -/
  | unwrittenByte
  /-- A WRITE whose message contains an unwritten byte, raised at issue (R97). Safe. -/
  | unwrittenMessage
  /-- A TX engine read of a TXBUF byte that is unwritten or past the buffer's end (R51).
  No run raises it, since R97 checks at issue; safe (log entry 12). -/
  | txFrameUnreadable
  /-- An RX engine append past the end of RXBUF. No run raises it (R121); safe (log entry 12). -/
  | rxBufOverflow
deriving DecidableEq, Repr

/-- Why a step is refused. -/
inductive Refusal where
  /-- exec's arm of an instruction without a meaning; no arm answers it. Safe. -/
  | notModelled (mnemonic : String)
  /-- DEVQ.FETCH, on a batch the device contract of R132 excludes: over 64 messages, or a message over 8 bytes.
  No device gives it; safe (log entry 3). -/
  | deviceContract
deriving DecidableEq, Repr

/-- The state: all of R20, and the model's own fields after the line that says so. -/
structure State where
  /-- CFG.SIZE (R23). -/
  size : BitVec 4
  /-- CFG.TX_EXT (R23). -/
  txExt : Bool
  /-- CFG.RX_EXT (R23). -/
  rxExt : Bool
  /-- TX_ID (R26). -/
  txId : Word
  /-- RX_ID (R27). -/
  rxId : Word
  /-- TRACE.EN (R35). -/
  traceEn : Bool
  /-- TX_LEN[15:0] (R31). -/
  txLen : BitVec 16
  /-- TX_COUNT[15:0] (R32). -/
  txCount : BitVec 16
  /-- RX_LEN[15:0] (R33). -/
  rxLen : BitVec 16
  /-- ERRCNT (R34). -/
  errCnt : Word
  /-- RXSTATE (R30). -/
  rxState : RxState
  /-- ICONT (R30). -/
  iCont : Byte
  /-- NCONT (R30). -/
  nCont : BitVec 7
  /-- STATUS.OPEN (R28). -/
  isOpen : Bool
  /-- STATUS.CTL_BUSY (R28). -/
  ctlBusy : Bool
  /-- STATUS.TX_BUSY (R28). -/
  txBusy : Bool
  /-- STATUS.RX_BUSY (R28). -/
  rxBusy : Bool
  /-- STATUS.CMD_ERR, sticky (R28, R154). -/
  cmdErr : Bool
  /-- STATUS.CTL_RES (R28). -/
  ctlRes : Res
  /-- STATUS.TX_RES (R28). -/
  txRes : Res
  /-- STATUS.RX_RES (R28). -/
  rxRes : Res
  /-- The adapter queue, head first; QLEVEL is its length (R37). -/
  q : List CanMsg
  /-- TXN: the latched message length (R38). -/
  txN : BitVec 16
  /-- TXNB: the latched `SIZE - 1` (R38). -/
  txNb : BitVec 3
  /-- TXOFF: the offset of the first byte not yet sent (R38). -/
  txOff : BitVec 16
  /-- TXI: the transmitter's iCont (R38). -/
  txI : Byte
  /-- TXBUF and RXBUF (R49, R50). -/
  mem : Memory
  /-- The trace port's events, oldest first (R166). -/
  trace : List TraceEvent
  /-- MODEL'S OWN: the moves to come, the next first (log entry 1). -/
  turns : List Turn
  /-- MODEL'S OWN: the answered device requests, oldest first (log entry 9). -/
  devLog : List DevEvent
  /-- MODEL'S OWN: the data returned to host reads, oldest first (log entry 9). -/
  busOut : List BusData
  /-- MODEL'S OWN wire: the frame the filter hands to the decoder inside one step (log entry 4). -/
  rxFrame : Option Frame
  /-- MODEL'S OWN wire: the frame the TX engine hands to FrameWrite inside one step (log entry 4). -/
  txFrame : Option Frame
  /-- MODEL'S OWN wire: FrameWrite's answer inside one step (log entry 4). -/
  txRet : Option Answer
deriving DecidableEq, Repr

/-- The state after reset (R44, R176). -/
def State.reset : State where
  size := 8#4
  txExt := false
  rxExt := false
  txId := 0#32
  rxId := 0#32
  traceEn := false
  txLen := 0#16
  txCount := 0#16
  rxLen := 0#16
  errCnt := 0#32
  rxState := .s0
  iCont := 0#8
  nCont := 0#7
  isOpen := false
  ctlBusy := false
  txBusy := false
  rxBusy := false
  cmdErr := false
  ctlRes := .none
  txRes := .none
  rxRes := .none
  q := []
  txN := 0#16
  txNb := 0#3
  txOff := 0#16
  txI := 0#8
  mem := []
  trace := []
  turns := []
  devLog := []
  busOut := []
  rxFrame := none
  txFrame := none
  txRet := none

end Sys2Proof.Machine
end

