-- ==== Sys2Proof/Machine/Ops.lean ====
section
/-! DEFINITION. The named operations over the buffers, the status fields, the trace port and the device (R14). -/

namespace Sys2Proof.Machine

/-- The abbreviation of an outcome of this machine. -/
abbrev Out := Host.Outcome State Fault Refusal

/-- Apply a function to the next state of an outcome, if it has one. -/
def mapNext (f : State → State) : Out → Out
  | .next s => .next (f s)
  | .fault r => .fault r
  | .refused r => .refused r

/-- The byte at a block offset, or none where it is unwritten (R51). -/
def Memory.read : Memory → Nat → Option Byte
  | [], _ => none
  | c :: m, a => if c.1 = a then some c.2 else Memory.read m a

/-- Store one byte, keeping the offsets strictly rising (R51). -/
def Memory.write : Memory → Nat → Byte → Memory
  | [], a, b => [(a, b)]
  | c :: m, a, b =>
    if a < c.1 then (a, b) :: c :: m
    else if a = c.1 then (a, b) :: m
    else c :: Memory.write m a b

/-- The `n` bytes from an offset, or none if one of them is unwritten (R51). -/
def Memory.readBytes (m : Memory) (a : Nat) : Nat → Option (List Byte)
  | 0 => some []
  | n + 1 =>
    match Memory.read m a, Memory.readBytes m (a + 1) n with
    | some b, some bs => some (b :: bs)
    | _, _ => none

/-- Store bytes at consecutive offsets (R51). -/
def Memory.writeBytes (m : Memory) (a : Nat) : List Byte → Memory
  | [] => m
  | b :: bs => Memory.writeBytes (Memory.write m a b) (a + 1) bs

/-- The block offset of a buffer's byte 0 (10_state.md R21). -/
def Buf.base : Buf → Nat
  | .tx => 0x400
  | .rx => 0x800

/-- `MemRead(buf, off, n)`: none where a byte is unwritten or past the buffer's end (R51). -/
def memRead (buf : Buf) (off n : Nat) (m : Memory) : Option (List Byte) :=
  if off + n ≤ Config.msgCap then Memory.readBytes m (buf.base + off) n else none

/-- `MemWrite(buf, off, n, v)` with `n` the length of `v`: none where it passes the buffer's end (R51). -/
def memWrite (buf : Buf) (off : Nat) (v : List Byte) (m : Memory) : Option Memory :=
  if off + v.length ≤ Config.msgCap then some (Memory.writeBytes m (buf.base + off) v) else none

/-- `emit Trace(dir, kind, bytes)`: one event, only if `TRACE.EN = 1` (R14, R166). -/
def emitTrace (dir : TraceDir) (kind : TraceKind) (bytes : Frame) (s : State) : State :=
  { s with trace := if s.traceEn then s.trace ++ [⟨dir, kind, bytes⟩] else s.trace }

/-- `complete(ch, res)`: the result and the busy bit change together (R14, R65). -/
def complete (ch : Channel) (r : Res) (s : State) : State :=
  match ch with
  | .ctl => { s with ctlRes := r, ctlBusy := false }
  | .tx => { s with txRes := r, txBusy := false }
  | .rx => { s with rxRes := r, rxBusy := false }

/-- The issue of a command: its channel is busy and its result is `NONE` (R22, R28). -/
def issue (ch : Channel) (s : State) : State :=
  match ch with
  | .ctl => { s with ctlRes := .none, ctlBusy := true }
  | .tx => { s with txRes := .none, txBusy := true }
  | .rx => { s with rxRes := .none, rxBusy := true }

/-- `raise CmdError`: the sticky bit and no other effect (R14, R154). SEGCAN has no exception entry (R152);
this is its only shared error entry that leaves a next state. -/
def raiseCmdError (s : State) : State := { s with cmdErr := true }

/-- A resynchronisation event counted in ERRCNT, modulo 2^32 (R34, R126). -/
def countError (s : State) : State := { s with errCnt := s.errCnt + 1#32 }

/-- Abandon the message being assembled and return to S0 (R113, R118, R120). -/
def resync (s : State) : State := { s with rxState := .s0, rxLen := 0#16 }

/-- Remove the head of the adapter queue (R139). -/
def popQueue (s : State) : State := { s with q := s.q.tail }

/-- Data returned to a host read; no other effect (R45, R60). -/
def busReturn (d : BusData) (s : State) : State := { s with busOut := s.busOut ++ [d] }

/-- A device request answered in this step (R132). -/
def logDevice (e : DevEvent) (s : State) : State := { s with devLog := s.devLog ++ [e] }

/-- The device contract on a batch: at most 64 messages, each of at most 8 bytes (R132). -/
def batchOk (ms : List CanMsg) : Bool :=
  ms.length ≤ Config.batch && ms.all (fun m => m.data.length ≤ Config.payloadWidth)

/-- The device's answer to DevOpen or DevClose in the move under way (R132). -/
def ctlAnswer (s : State) : Option Answer :=
  match s.turns with
  | .ctl a :: _ => a
  | _ => none

/-- The device's answer to DevWrite in the move under way (R132). -/
def writeAnswer (s : State) : Option Answer :=
  match s.turns with
  | .tx a :: _ => a
  | _ => none

/-- The device's answer to DevRead in the move under way (R132). -/
def readAnswer (s : State) : Option ReadAnswer :=
  match s.turns with
  | .rx a :: _ => a
  | _ => none

/-- Whether the move under way is the CTL engine's: it runs the engine step of OPEN or CLOSE, where a host
write issues the command (R134, R136, log entry 5). -/
def ctlEngineMoves (s : State) : Bool :=
  match s.turns with
  | .ctl _ :: _ => true
  | _ => false

/-- The CAN message that carries a frame (R82, R146): the configured identifier and format, a data message,
the frame capped at the device payload width. DESIGN CHOICE (log entry 17): the set of status flag names, to which R80 gives no
meaning in a data message and which R82 and R146 do not list, is empty. -/
def frameMsg (f : Frame) (s : State) : CanMsg where
  id := s.txId
  ext := s.txExt
  status := false
  sflags := ⟨false, false, false⟩
  data := f.take Config.payloadWidth

/-- `FrameWrite(f)` on the frame wire: one submission, its answer on the answer wire (R146). With no answer from
the device nothing happens: the TX engine waits (R132). -/
def frameWrite (s : State) : State :=
  match s.txFrame, writeAnswer s with
  | some f, some a => { logDevice (.write (frameMsg f s) a) s with txFrame := none, txRet := some a }
  | _, _ => s

/-- The end of a step: the move is spent and the wires inside it carry nothing on (R16, log entry 4). -/
def endTurn (s : State) : State :=
  { s with turns := s.turns.tail, rxFrame := none, txFrame := none, txRet := none }

/-- The reset input: every piece of the spec's state at its R44 value (R174). The moves to come and what the
device and the host have already seen stand outside SEGCAN and stay (R175, log entry 9). -/
def powerOn (s : State) : State :=
  { State.reset with turns := s.turns, devLog := s.devLog, busOut := s.busOut }

end Sys2Proof.Machine
end

