-- ==== Sys2Proof/Machine/Operands.lean ====
section
/-! DEFINITION. The operand forms: frames, the selection of the engines' operations, block offsets and byte lanes. -/

namespace Sys2Proof.Machine

/-- The payload of a frame: its bytes after the control byte (R72). -/
def payload (f : Frame) : List Byte := f.drop 1

/-- The frame delivered to the decoder in this step; the empty frame where the wire holds none (R137). -/
def delivered (s : State) : Frame := s.rxFrame.getD []

/-- The decode class of a frame by RXSTATE, L and ctl (R78). -/
def rxClass (s : State) (f : Frame) : Instr :=
  match f with
  | [] => .rxZeroLen s.rxState
  | ctl :: _ => decodeCtl s.iCont s.rxState ctl

/-- The decode word of a frame (R79). -/
def frameDw (s : State) (f : Frame) : BitVec 10 :=
  match f with
  | [] => dw s.rxState false 0x00#8
  | ctl :: _ => dw s.rxState true ctl

/-- The filter word of a message (R81, R139). -/
def msgFw (m : CanMsg) : BitVec 34 := fw m.status m.ext m.id

/-- The filter class of a message (R139). -/
def fltClass (s : State) (m : CanMsg) : Instr := decodeFlt s.rxExt s.rxId (msgFw m)

/-- `rem = TXN - TXOFF`, the message bytes not yet sent (R100). -/
def txRem (s : State) : Nat := s.txN.toNat - s.txOff.toNat

/-- Whether the next frame is the message's last: `rem <= TXNB` (R100). -/
def txFinal (s : State) : Bool := txRem s ≤ s.txNb.toNat

/-- The continuation count `(TXN - 1) / TXNB` (R76, R101). -/
def txTotal (s : State) : Nat := (s.txN.toNat - 1) / s.txNb.toNat

/-- The frame the TX engine emits next (R100). -/
def txClass (s : State) : Instr :=
  if txFinal s then
    if s.txI = 0#8 then .txSingle else .txContLast (ctlLow s.txI)
  else if s.txI = 0#8 then .txStart (BitVec.ofNat 7 (txTotal s))
  else .txCont (ctlLow s.txI)

/-- What the decoders compare a word with in this state (R78, R81, R100). -/
def decodeCtx (s : State) : DecodeCtx where
  iCont := s.iCont
  rxExt := s.rxExt
  rxId := s.rxId
  txFinal := txFinal s

/-- `TXNB = CFG.SIZE - 1` (R97). -/
def sizeNb (s : State) : BitVec 3 := (s.size - 1#4).setWidth 3

/-- The registers (10_state.md R21). -/
inductive Reg where
  | cmd
  | status
  | cfg
  | txId
  | rxId
  | txLen
  | txCount
  | rxLen
  | errCnt
  | rxFsm
  | trace
  | qLevel
deriving DecidableEq, Repr

/-- What lies at a block offset (R21). -/
inductive Region where
  | reg (r : Reg)
  | buf (b : Buf)
  | reserved
deriving DecidableEq, Repr

/-- The register of the word at offset `4 * k` (R21). -/
def regAt : Nat → Reg
  | 0 => .cmd
  | 1 => .status
  | 2 => .cfg
  | 3 => .txId
  | 4 => .rxId
  | 5 => .txLen
  | 6 => .txCount
  | 7 => .rxLen
  | 8 => .errCnt
  | 9 => .rxFsm
  | 10 => .trace
  | _ => .qLevel

/-- The block's layout (R21). -/
def region (off : BitVec 12) : Region :=
  if off < 0x030#12 then .reg (regAt (off.toNat / 4))
  else if 0x400#12 ≤ off ∧ off < 0x780#12 then .buf .tx
  else if 0x800#12 ≤ off ∧ off < 0xB80#12 then .buf .rx
  else .reserved

/-- A 4-aligned offset (R55). -/
def aligned4 (off : BitVec 12) : Bool := off.toNat % 4 = 0

/-- The bytes of a word in a buffer, bits 7:0 first (R54). -/
def wordBytes (v : Word) : List Byte :=
  [v.extractLsb' 0 8, v.extractLsb' 8 8, v.extractLsb' 16 8, v.extractLsb' 24 8]

/-- The word four buffer bytes make, the first in bits 7:0 (R54). -/
def bytesWord (b0 b1 b2 b3 : Byte) : Word := b3 ++ b2 ++ b1 ++ b0

end Sys2Proof.Machine
end

