-- ==== Sys2Proof/Machine/Flags.lean ====
section
/-! DEFINITION. The status fields and the words the host reads (10_state.md R22 to R36), and what makes a host
write illegal (60_exceptions.md R155). -/

namespace Sys2Proof.Machine

/-- The 4-bit code of a result (30_encoding.md R85). -/
def Res.code : Res → BitVec 4
  | .none => 0#4
  | .ok => 1#4
  | .notOpen => 2#4
  | .tooLong => 3#4
  | .devReadErr => 4#4
  | .emptyBatch => 5#4
  | .devWriteErr => 6#4
  | .openFail => 7#4
  | .closeFail => 8#4

/-- The one-bit vector of a flag. -/
def flagBit (b : Bool) : BitVec 1 := BitVec.ofBool b

/-- `STATUS` (R28). -/
def statusWord (s : State) : Word :=
  0#12 ++ s.rxRes.code ++ s.txRes.code ++ s.ctlRes.code ++ 0#3 ++ flagBit s.cmdErr ++ flagBit s.rxBusy
    ++ flagBit s.txBusy ++ flagBit s.ctlBusy ++ flagBit s.isOpen

/-- `CFG` (R23). -/
def cfgWord (s : State) : Word :=
  0#22 ++ flagBit s.rxExt ++ flagBit s.txExt ++ 0#4 ++ s.size

/-- `RXFSM` (R29). -/
def rxFsmWord (s : State) : Word :=
  0#9 ++ s.nCont ++ s.iCont ++ 0#7 ++ s.rxState.bit

/-- `TRACE` (R35). -/
def traceWord (s : State) : Word := 0#31 ++ flagBit s.traceEn

/-- `QLEVEL = len(Q)` in bits 6:0 (R36, R37). -/
def qLevelWord (s : State) : Word := 0#25 ++ BitVec.ofNat 7 s.q.length

/-- A 16-bit count in bits 15:0 of its register (R31, R32, R33). -/
def halfWord (v : BitVec 16) : Word := 0#16 ++ v

/-- The value a host read of a register returns (R21); `CMD` reads 0 (R22). -/
def readReg (r : Reg) (s : State) : Word :=
  match r with
  | .cmd => 0#32
  | .status => statusWord s
  | .cfg => cfgWord s
  | .txId => s.txId
  | .rxId => s.rxId
  | .txLen => halfWord s.txLen
  | .txCount => halfWord s.txCount
  | .rxLen => halfWord s.rxLen
  | .errCnt => s.errCnt
  | .rxFsm => rxFsmWord s
  | .trace => traceWord s
  | .qLevel => qLevelWord s

/-- OPEN is illegal while open or while an engine is busy (R155). -/
def openIllegal (s : State) : Bool := s.isOpen || s.ctlBusy || s.txBusy || s.rxBusy

/-- CLOSE is illegal while an engine is busy (R155). -/
def closeIllegal (s : State) : Bool := s.ctlBusy || s.txBusy || s.rxBusy

/-- WRITE is illegal while TX or CTL is busy (R155). -/
def writeIllegal (s : State) : Bool := s.txBusy || s.ctlBusy

/-- READ is illegal while RX or CTL is busy (R155). -/
def readIllegal (s : State) : Bool := s.rxBusy || s.ctlBusy

/-- The configuration is locked while open or while CTL is busy (R25, R155). -/
def cfgLocked (s : State) : Bool := s.isOpen || s.ctlBusy

/-- `SIZE` must be in 2..8 (R6, R24). -/
def sizeLegal (v : BitVec 4) : Bool := 2#4 ≤ v && v ≤ 8#4

end Sys2Proof.Machine
end

