-- ==== Sys2Proof/Machine/Commands.lean ====
section
/-! DEFINITION. The host commands OPEN, CLOSE, WRITE, READ and the reserved codes. -/

namespace Sys2Proof.Machine

/-- The CTL engine's step of OPEN (42_can_dispatch.md R134, R135). -/
def openEngine (s : State) : State :=
  match ctlAnswer s with
  | none => s
  | some .err => complete .ctl .openFail (logDevice (.open_ .err) s)
  | some .ok => complete .ctl .ok { logDevice (.open_ .ok) s with q := [], isOpen := true }

/-- OPEN (R134): the issue step of a host write, and the engine step of the CTL engine's move. -/
def execCmdOpen (s : State) : Out :=
  if ctlEngineMoves s then .next (openEngine s)
  else if openIllegal s then .next (raiseCmdError s)
  else .next (issue .ctl s)

/-- The CTL engine's step of CLOSE: closed whatever the device answers (R136, R149). -/
def closeEngine (s : State) : State :=
  match ctlAnswer s with
  | none => s
  | some a =>
    complete .ctl (match a with | .ok => .ok | .err => .closeFail)
      { logDevice (.close a) s with q := [], isOpen := false }

/-- CLOSE (R136): the issue step of a host write, and the engine step of the CTL engine's move. -/
def execCmdClose (s : State) : Out :=
  if ctlEngineMoves s then .next (closeEngine s)
  else if closeIllegal s then .next (raiseCmdError s)
  else if s.isOpen then .next (issue .ctl s)
  else .next (complete .ctl .notOpen (issue .ctl s))

/-- The latches of a WRITE (40_seg_write.md R96, R97). -/
def latchWrite (s : State) : State :=
  { s with txN := s.txLen, txNb := sizeNb s, txOff := 0#16, txI := 0#8 }

/-- The issue of a WRITE, before its checks: `TX_COUNT` is 0 (R96, R32). -/
def issueWrite (s : State) : State := { issue .tx s with txCount := 0#16 }

/-- WRITE (R96): the issue step, its checks in the order of R161. The frames are the TX engine's (R100). -/
def execCmdWrite (s : State) : Out :=
  if writeIllegal s then .next (raiseCmdError s)
  else if s.isOpen = false then .next (complete .tx .notOpen (issueWrite s))
  else if s.txLen.toNat > 128 * (sizeNb s).toNat then
    .next (complete .tx .tooLong (latchWrite (issueWrite s)))
  else
    match memRead .tx 0 s.txLen.toNat s.mem with
    | none => .fault .unwrittenMessage
    | some _ => .next (latchWrite (issueWrite s))

/-- The issue of a READ: `RX_LEN` is 0 (41_seg_read.md R110, R112). -/
def issueRead (s : State) : State := { issue .rx s with rxLen := 0#16 }

/-- READ (R110): the issue step. The fetches and decodes are the RX engine's (42_can_dispatch.md R137). -/
def execCmdRead (s : State) : Out :=
  if readIllegal s then .next (raiseCmdError s)
  else if s.isOpen then .next { issueRead s with rxState := .s0 }
  else .next (complete .rx .notOpen (issueRead s))

/-- CMD.RESERVED (30_encoding.md R84): `CmdError` and nothing else. -/
def execCmdReserved (_code : Byte) (s : State) : Out := .next (raiseCmdError s)

end Sys2Proof.Machine
end

