-- ==== Sys2Proof/Machine/Filter.lean ====
section
/-! DEFINITION. The adapter: DEVQ.FETCH, FLT.STATUS, FLT.EXT_MISMATCH, FLT.ID_MISMATCH, FLT.MATCH and CANTX.FRAME
(42_can_dispatch.md R137 to R148). -/

namespace Sys2Proof.Machine

/-- A transport error ends the READ: the partial message is abandoned, ERRCNT is unchanged (R138, R120). -/
def readFail (r : Res) (s : State) : State := complete .rx r (resync s)

/-- DEVQ.FETCH (R138): one device read into the empty queue. -/
def execDevqFetch (s : State) : Out :=
  match readAnswer s with
  | none => .next s
  | some .err => .next (readFail .devReadErr (logDevice (.read .err) s))
  | some (.batch ms) =>
    if batchOk ms = false then .refused .deviceContract
    else if ms = [] then .next (readFail .emptyBatch (logDevice (.read (.batch ms)) s))
    else .next { logDevice (.read (.batch ms)) s with q := ms }

/-- FLT.STATUS (R140): the message is skipped. -/
def execFltStatus (_ext : Bool) (_id : Word) (s : State) : Out := .next (popQueue s)

/-- FLT.EXT_MISMATCH (R141): the message is skipped. -/
def execFltExtMismatch (_ext : Bool) (_id : Word) (s : State) : Out := .next (popQueue s)

/-- FLT.ID_MISMATCH (R142): the message is skipped. -/
def execFltIdMismatch (_ext : Bool) (_id : Word) (s : State) : Out := .next (popQueue s)

/-- FLT.MATCH (R143): the message's payload is the frame returned to the decoder. -/
def execFltMatch (_ext : Bool) (_id : Word) (s : State) : Out :=
  .next { popQueue s with rxFrame := s.q.head?.map CanMsg.data }

/-- CANTX.FRAME (R146): the frame on the wire submitted as one CAN message. -/
def execCantxFrame (s : State) : Out := .next (frameWrite s)

end Sys2Proof.Machine
end

