-- ==== Sys2Proof/Machine/SegRx.lean ====
section
/-! DEFINITION. The receive decode classes: RX.ZERO_LEN, RX.SINGLE, RX.MALFORMED, RX.START, RX.CONT, RX.OUT_OF_SEQ
(41_seg_read.md R113 to R118). -/

namespace Sys2Proof.Machine

/-- An anomaly: counted, traced as `??`, the frame discarded (R113, R115, R118, R125, R126). -/
def rxAnomaly (f : Frame) (s : State) : State :=
  emitTrace .rx .unknown f { countError s with rxFrame := none }

/-- An accepted frame: its payload stored in RXBUF from `off`, `RX_LEN` after it, the trace event, then `done`
(R114, R116, R117). -/
def rxAccept (kind : TraceKind) (off : Nat) (done : State → State) (s : State) : Out :=
  match memWrite .rx off (payload (delivered s)) s.mem with
  | none => .fault .rxBufOverflow
  | some m =>
    .next (done (emitTrace .rx kind (delivered s)
      { s with mem := m, rxLen := BitVec.ofNat 16 (off + (payload (delivered s)).length), rxFrame := none }))

/-- The start of a message: the count, the index expected next, and S1 (R116, conflict C1). -/
def rxBegin (n : BitVec 7) (s : State) : State :=
  { s with nCont := n, iCont := 1#8, rxState := .s1 }

/-- After an accepted continuation: the message ends at index `NCONT`, else the next index is expected (R117). -/
def rxContinue (s : State) : State :=
  if s.iCont = s.nCont.setWidth 8 then complete .rx .ok { s with rxState := .s0 }
  else { s with iCont := s.iCont + 1#8 }

/-- RX.ZERO_LEN (R113), in either state. -/
def execRxZeroLen (_st : RxState) (s : State) : Out := .next (resync (rxAnomaly [] s))

/-- RX.SINGLE (R114). -/
def execRxSingle (s : State) : Out := rxAccept .single 0 (complete .rx .ok) s

/-- RX.MALFORMED (R115): RXSTATE stays S0 and RX_LEN is not written. -/
def execRxMalformed (_n : BitVec 7) (s : State) : Out := .next (rxAnomaly (delivered s) s)

/-- RX.START (R116). -/
def execRxStart (n : BitVec 7) (s : State) : Out := rxAccept .start 0 (rxBegin n) s

/-- RX.CONT (R117). -/
def execRxCont (_i : BitVec 7) (s : State) : Out := rxAccept .cont s.rxLen.toNat rxContinue s

/-- RX.OUT_OF_SEQ (R118): the message in progress is abandoned and the frame discarded. -/
def execRxOutOfSeq (_ctl : Byte) (s : State) : Out := .next (resync (rxAnomaly (delivered s) s))

end Sys2Proof.Machine
end

