-- ==== Sys2Proof/Machine/SegTx.lean ====
section
/-! DEFINITION. The frames of a WRITE: TX.SINGLE, TX.START, TX.CONT, TX.CONT.LAST (40_seg_write.md R100 to R105). -/

namespace Sys2Proof.Machine

/-- The frame wires spent, as FrameWrite's caller leaves them. -/
def clearTxWires (s : State) : State := { s with txFrame := none, txRet := none }

/-- The device rejected the frame: the WRITE stops and reports the bytes accepted (R103). -/
def txFail (s : State) : State :=
  complete .tx .devWriteErr { s with txCount := s.txOff }

/-- After an accepted frame that is not the last (R101). -/
def txAdvance (s : State) : State :=
  { s with txOff := s.txOff + s.txNb.setWidth 16, txI := s.txI + 1#8 }

/-- After the accepted last frame (R102, R104). -/
def txFinish (s : State) : State :=
  complete .tx .ok { s with txCount := s.txN }

/-- One frame: a control byte and `n` bytes of TXBUF from `TXOFF`, handed to FrameWrite; then R103, or the trace
event (R105) and `done`. With no answer from the device the TX engine waits with all its state (R132, R172). -/
def txSend (kind : TraceKind) (ctl : Byte) (n : Nat) (done : State → State) (s : State) : Out :=
  match memRead .tx s.txOff.toNat n s.mem with
  | none => .fault .txFrameUnreadable
  | some bytes =>
    let sent := frameWrite { s with txFrame := some (ctl :: bytes), txRet := none }
    match sent.txRet with
    | none => .next s
    | some .err => .next (txFail (clearTxWires sent))
    | some .ok => .next (done (emitTrace .tx kind (ctl :: bytes) (clearTxWires sent)))

/-- TX.SINGLE (R102): `[0x00]` and the whole message. -/
def execTxSingle (s : State) : Out := txSend .single 0x00#8 (txRem s) txFinish s

/-- TX.START (R101): the count and the first `TXNB` bytes. -/
def execTxStart (n : BitVec 7) (s : State) : Out := txSend .start (startCtl n) s.txNb.toNat txAdvance s

/-- TX.CONT (R101): a full continuation frame. -/
def execTxCont (i : BitVec 7) (s : State) : Out := txSend .cont (contCtl i) s.txNb.toNat txAdvance s

/-- TX.CONT.LAST (R102): the last continuation frame, with the remaining bytes. -/
def execTxContLast (i : BitVec 7) (s : State) : Out := txSend .cont (contCtl i) (txRem s) txFinish s

end Sys2Proof.Machine
end

