-- ==== Sys2Proof/Machine/Dispatch.lean ====
section
/-! DEFINITION. exec: one arm for each instruction. -/

namespace Sys2Proof.Machine

def exec (i : Instr) (s : State) : Host.Outcome State Fault Refusal :=
  match i with
  | .cmdOpen => Sys2Proof.Machine.execCmdOpen s
  | .cmdClose => Sys2Proof.Machine.execCmdClose s
  | .cmdWrite => Sys2Proof.Machine.execCmdWrite s
  | .cmdRead => Sys2Proof.Machine.execCmdRead s
  | .cmdReserved code => Sys2Proof.Machine.execCmdReserved code s
  | .txSingle => Sys2Proof.Machine.execTxSingle s
  | .txStart n => Sys2Proof.Machine.execTxStart n s
  | .txCont k => Sys2Proof.Machine.execTxCont k s
  | .txContLast k => Sys2Proof.Machine.execTxContLast k s
  | .rxZeroLen st => Sys2Proof.Machine.execRxZeroLen st s
  | .rxSingle => Sys2Proof.Machine.execRxSingle s
  | .rxMalformed n => Sys2Proof.Machine.execRxMalformed n s
  | .rxStart n => Sys2Proof.Machine.execRxStart n s
  | .rxCont k => Sys2Proof.Machine.execRxCont k s
  | .rxOutOfSeq ctl => Sys2Proof.Machine.execRxOutOfSeq ctl s
  | .fltStatus ext id => Sys2Proof.Machine.execFltStatus ext id s
  | .fltExtMismatch ext id => Sys2Proof.Machine.execFltExtMismatch ext id s
  | .fltIdMismatch ext id => Sys2Proof.Machine.execFltIdMismatch ext id s
  | .fltMatch ext id => Sys2Proof.Machine.execFltMatch ext id s
  | .devqFetch => Sys2Proof.Machine.execDevqFetch s
  | .cantxFrame => Sys2Proof.Machine.execCantxFrame s

end Sys2Proof.Machine
end

