-- ==== Sys2Proof/Machine/HostBus.lean ====
section
/-! DEFINITION. The host's accesses to the register block (10_state.md R21, 20_memory.md R54, R55, 60_exceptions.md R155 to R157, R161). -/

namespace Sys2Proof.Machine

/-- A configuration write under the lock of R25: refused with `CmdError`, or done. -/
def lockedWrite (s : State) (done : State) : Out :=
  .next (if cfgLocked s then raiseCmdError s else done)

/-- A `CFG` write: refused whole when locked or when SIZE is not in 2..8 (R23, R24, R25). -/
def writeCfg (v : Word) (s : State) : Out :=
  .next (if cfgLocked s || !sizeLegal (v.extractLsb' 0 4) then raiseCmdError s
    else { s with size := v.extractLsb' 0 4, txExt := v.getLsbD 8, rxExt := v.getLsbD 9 })

/-- A `TX_LEN` write: bits 31:16 are ignored, refused while `TX_BUSY = 1` (R31). -/
def writeTxLen (v : Word) (s : State) : Out :=
  .next (if s.txBusy then raiseCmdError s else { s with txLen := v.extractLsb' 0 16 })

/-- A 32-bit register write (R21). A `CMD` write issues its command at once (R22). -/
def writeReg (r : Reg) (v : Word) (s : State) : Out :=
  match r with
  | .cmd => exec (decodeCmd v) s
  | .status => .fault .readOnly
  | .cfg => writeCfg v s
  | .txId => lockedWrite s { s with txId := v }
  | .rxId => lockedWrite s { s with rxId := v }
  | .txLen => writeTxLen v s
  | .txCount => .fault .readOnly
  | .rxLen => .fault .readOnly
  | .errCnt => .fault .readOnly
  | .rxFsm => .fault .readOnly
  | .trace => .next { s with traceEn := v.getLsbD 0 }
  | .qLevel => .fault .readOnly

/-- A register takes aligned 32-bit accesses only (R55). -/
def accessReg (r : Reg) (off : BitVec 12) (acc : Access) (s : State) : Out :=
  match acc with
  | .r32 => if aligned4 off then .next (busReturn (.word (readReg r s)) s) else .fault .badWidth
  | .w32 v => if aligned4 off then writeReg r v s else .fault .badWidth
  | .r8 => .fault .badWidth
  | .r16 => .fault .badWidth
  | .w8 _ => .fault .badWidth
  | .w16 _ => .fault .badWidth

/-- A buffer's owner hazard on a read: RXBUF while `RX_BUSY = 1` (R71). -/
def readHazard (b : Buf) (s : State) : Bool :=
  match b with
  | .tx => false
  | .rx => s.rxBusy

/-- A host read of one buffer byte (R51, R157). -/
def readBuf8 (b : Buf) (off : BitVec 12) (s : State) : Out :=
  if readHazard b s then .fault .rxBufBusy
  else
    match Memory.read s.mem off.toNat with
    | some v => .next (busReturn (.byte v) s)
    | none => .fault .unwrittenByte

/-- A host read of one buffer word, little-endian (R51, R54, R157). -/
def readBuf32 (b : Buf) (off : BitVec 12) (s : State) : Out :=
  if readHazard b s then .fault .rxBufBusy
  else
    match Memory.readBytes s.mem off.toNat 4 with
    | some [b0, b1, b2, b3] => .next (busReturn (.word (bytesWord b0 b1 b2 b3)) s)
    | _ => .fault .unwrittenByte

/-- A host write of buffer bytes: TXBUF only, and not while `TX_BUSY = 1` (R49, R50, R70, R157). -/
def writeBuf (b : Buf) (off : BitVec 12) (v : List Byte) (s : State) : Out :=
  match b with
  | .rx => .fault .readOnly
  | .tx => if s.txBusy then .fault .txBufBusy else .next { s with mem := Memory.writeBytes s.mem off.toNat v }

/-- A buffer takes 8-bit accesses and aligned 32-bit accesses (R55). -/
def accessBuf (b : Buf) (off : BitVec 12) (acc : Access) (s : State) : Out :=
  match acc with
  | .r8 => readBuf8 b off s
  | .w8 v => writeBuf b off [v] s
  | .r32 => if aligned4 off then readBuf32 b off s else .fault .badWidth
  | .w32 v => if aligned4 off then writeBuf b off (wordBytes v) s else .fault .badWidth
  | .r16 => .fault .badWidth
  | .w16 _ => .fault .badWidth

/-- A host access at a block offset: bus errors first (R161). -/
def hostAccess (off : BitVec 12) (acc : Access) (s : State) : Out :=
  match region off with
  | .reg r => accessReg r off acc s
  | .buf b => accessBuf b off acc s
  | .reserved => .fault .reservedOffset

end Sys2Proof.Machine
end

