-- ==== Sys2Proof/Machine/Select.lean ====
section
/-! DEFINITION. What the next move does (00_scope.md R15, R16): this machine's instruction fetch. -/

namespace Sys2Proof.Machine

/-- What the next move does. -/
inductive Action where
  /-- Nothing: no move is left, the engine moved has no command running, or the address is not the block's. -/
  | idle
  /-- An engine runs an operation. -/
  | run (i : Instr)
  /-- The host accesses a block offset. -/
  | access (off : BitVec 12) (acc : Access)
  /-- Reset. -/
  | reset
deriving DecidableEq, Repr

/-- The CTL engine runs OPEN while closed and CLOSE while open: it has no state beyond STATUS (10_state.md R46, log entry 5). -/
def selectCtl (s : State) : Action :=
  if s.ctlBusy then .run (if s.isOpen then .cmdClose else .cmdOpen) else .idle

/-- The TX engine emits one frame (40_seg_write.md R100). A frame already on the wire is only to be transmitted (log entry 4). -/
def selectTx (s : State) : Action :=
  if s.txBusy then
    match s.txFrame with
    | some _ => .run .cantxFrame
    | none => .run (txClass s)
  else .idle

/-- The RX engine fetches a batch or pops and filters one message (42_can_dispatch.md R137, R139). A frame
already on the wire is only to be decoded (log entry 4). -/
def selectRx (s : State) : Action :=
  if s.rxBusy then
    match s.rxFrame, s.q with
    | some f, _ => .run (rxClass s f)
    | none, [] => .run .devqFetch
    | none, m :: _ => .run (fltClass s m)
  else .idle

/-- A host access by bus address reaches the block through `BASE` (R21). -/
def selectBus (addr : Nat) (acc : Access) : Action :=
  match Config.blockOffset addr with
  | some off => .access off acc
  | none => .idle

/-- What the next move does. -/
def select (s : State) : Action :=
  match s.turns with
  | [] => .idle
  | .host off acc :: _ => .access off acc
  | .bus addr acc :: _ => selectBus addr acc
  | .ctl _ :: _ => selectCtl s
  | .tx _ :: _ => selectTx s
  | .rx _ :: _ => selectRx s
  | .reset :: _ => .reset

/-- After FLT.MATCH the decode of the delivered frame runs in the same step (R16, R137). -/
def follow (i : Instr) (s : State) : Option Instr :=
  match i with
  | .fltMatch _ _ => s.rxFrame.map (rxClass s)
  | _ => none

end Sys2Proof.Machine
end

