-- ==== Sys2Proof/Machine/Stage.lean ====
section
/-! DEFINITION. How an instruction comes to be the next one run (log entry 7): the host's write of a command, or the state
of an engine in which that operation is the one it selects, with the move that runs it. -/

namespace Sys2Proof.Machine

/-- A move put before those to come. -/
def queueTurn (t : Turn) (s : State) : State := { s with turns := t :: s.turns }

/-- A host write of a command word (R22). -/
def stageCmd (w : Word) (s : State) : State := queueTurn (.host 0x000#12 (.w32 w)) s

/-- A WRITE of `n` bytes in one-byte payloads at index `i`, its bytes written, and the TX engine's move. -/
def stageTx (n i : Nat) (s : State) : State :=
  queueTurn (.tx (some .ok))
    { s with
      isOpen := true, ctlBusy := false, txBusy := true, txRes := .none, size := 2#4, txN := BitVec.ofNat 16 n, txNb := 1#3,
      txOff := BitVec.ofNat 16 i, txI := BitVec.ofNat 8 i,
      mem := Memory.writeBytes s.mem Buf.tx.base (List.replicate n 0x00#8), txFrame := none, txRet := none }

/-- A READ in state `st` expecting index `k`, with a frame delivered to the decoder, and the RX engine's move. -/
def stageRx (st : RxState) (k : Byte) (f : Frame) (s : State) : State :=
  queueTurn (.rx none)
    { s with
      isOpen := true, ctlBusy := false, rxBusy := true, rxRes := .none, rxState := st, iCont := k, rxLen := 0#16,
      rxFrame := some f }

/-- A READ with a message at the head of the queue, the receive filter as given, and the RX engine's move. -/
def stageFlt (status ext : Bool) (id : Word) (rxExt : Bool) (rxId : Word) (s : State) : State :=
  queueTurn (.rx none)
    { s with
      isOpen := true, ctlBusy := false, rxBusy := true, rxRes := .none, rxExt := rxExt, rxId := rxId, rxFrame := none,
      q := ⟨id, ext, status, ⟨false, false, false⟩, []⟩ :: s.q }

/-- The state in which the next step runs this instruction. -/
def stage (i : Instr) (s : State) : State :=
  match i with
  | .cmdOpen => stageCmd 0x01#32 s
  | .cmdClose => stageCmd 0x02#32 s
  | .cmdWrite => stageCmd 0x10#32 s
  | .cmdRead => stageCmd 0x20#32 s
  | .cmdReserved code => stageCmd (0#24 ++ code) s
  | .txSingle => stageTx 0 0 s
  | .txStart n => stageTx (n.toNat + 1) 0 s
  | .txCont k => stageTx (k.toNat + 2) k.toNat s
  | .txContLast k => stageTx (k.toNat + 1) k.toNat s
  | .rxZeroLen st => stageRx st 0x01#8 [] s
  | .rxSingle => stageRx .s0 0x01#8 [0x00#8] s
  | .rxMalformed n => stageRx .s0 0x01#8 [contCtl n] s
  | .rxStart n => stageRx .s0 0x01#8 [startCtl n] s
  | .rxCont k => stageRx .s1 (contCtl k) [contCtl k] s
  | .rxOutOfSeq ctl => stageRx .s1 (if ctl = 0x01#8 then 0x02#8 else 0x01#8) [ctl] s
  | .fltStatus ext id => stageFlt true ext id s.rxExt s.rxId s
  | .fltExtMismatch ext id => stageFlt false ext id (!ext) s.rxId s
  | .fltIdMismatch ext id => stageFlt false ext id ext (id + 1#32) s
  | .fltMatch ext id => stageFlt false ext id ext id s
  | .devqFetch =>
    queueTurn (.rx (some (.batch [⟨0#32, false, true, ⟨true, false, false⟩, []⟩])))
      { s with isOpen := true, ctlBusy := false, rxBusy := true, rxRes := .none, rxFrame := none, q := [] }
  | .cantxFrame =>
    queueTurn (.tx (some .ok))
      { s with isOpen := true, ctlBusy := false, txBusy := true, txRes := .none, txFrame := some [0x00#8], txRet := none }

end Sys2Proof.Machine
end

