-- ==== Sys2Proof/Machine/Step.lean ====
section
/-! DEFINITION. One step: one move of one agent (00_scope.md R15, R16). -/

namespace Sys2Proof.Machine

/-- An operation, and the decode of the frame it delivers in the same step, if it delivers one (R16). -/
def runInstr (i : Instr) (s : State) : Out :=
  match exec i s with
  | .next s' =>
    match follow i s' with
    | some j => exec j s'
    | none => .next s'
  | .fault r => .fault r
  | .refused r => .refused r

/-- The effect of the next move, before the move is spent. -/
def perform (s : State) : Out :=
  match select s with
  | .idle => .next s
  | .run i => runInstr i s
  | .access off acc => hostAccess off acc s
  | .reset => .next (powerOn s)

/-- One step: the next move, then the end of it. With no move to come nothing changes (log entry 1). -/
def step (s : State) : Host.Outcome State Fault Refusal := mapNext endTurn (perform s)

/-- The state whose next step runs the instruction of a table word (log entry 7); unchanged where the decoder
refuses the word. -/
def State.withFetchWord (s : State) (nbits w : Nat) : State :=
  match decodeTableWord nbits w with
  | some i => stage i s
  | none => s

end Sys2Proof.Machine
end

