-- ==== Sys2Proof/Safety.lean ====
section
/-! DEFINITION. What a good run is (70_reset_and_hazards.md R191), the machine's invariant, and the spec's tables that
claims compare the machine with. -/

namespace Sys2Proof.Machine

/-- A byte of a buffer holds a value (20_memory.md R51). -/
def written (b : Buf) (k : Nat) (m : Memory) : Prop := (Memory.read m (b.base + k)).isSome = true

/-- The offsets of TXBUF and RXBUF (R49, R50). -/
def inBuffers (a : Nat) : Prop := (0x400 ≤ a ∧ a < 0x780) ∨ (0x800 ≤ a ∧ a < 0xB80)

/-- The bytes at an offset and after it, `n` of them, are the only ones that may differ. -/
def sameOutside (m m' : Memory) (lo n : Nat) : Prop :=
  ∀ a, ¬(lo ≤ a ∧ a < lo + n) → Memory.read m' a = Memory.read m a

/-- The bytes `v` stand at consecutive offsets from `lo`. -/
def holdsAt (m : Memory) (lo : Nat) (v : List Byte) : Prop :=
  ∀ k b, v[k]? = some b → Memory.read m (lo + k) = some b

/-- The trace port after one event, which it takes only if `TRACE.EN = 1` (60_exceptions.md R166). -/
def traced (s : State) (dir : TraceDir) (kind : TraceKind) (f : Frame) : List TraceEvent :=
  if s.traceEn then s.trace ++ [⟨dir, kind, f⟩] else s.trace

/-- The CAN message that carries a frame of at most 8 bytes (30_encoding.md R82); its empty set of status flag names is the model's
choice (log entry 17). -/
def carried (s : State) (f : Frame) : CanMsg := ⟨s.txId, s.txExt, false, ⟨false, false, false⟩, f⟩

/-- No wire inside a step carries anything (log entry 4). -/
def State.wiresClear (s : State) : Prop := s.rxFrame = none ∧ s.txFrame = none ∧ s.txRet = none

/-- The TX engine's position in a running WRITE (10_state.md R38, 40_seg_write.md R97 to R102). -/
structure TxInv (s : State) : Prop where
  isOpen : s.isOpen = true
  nbOfSize : s.txNb = sizeNb s
  lengthLegal : s.txN.toNat ≤ 128 * s.txNb.toNat
  offset : s.txOff.toNat = s.txI.toNat * s.txNb.toNat
  remains : s.txI = 0#8 ∨ s.txOff.toNat < s.txN.toNat
  messageWritten : ∀ k, k < s.txN.toNat → written .tx k s.mem

/-- The invariant of the machine: the bounds and couplings the spec states of every reachable state. -/
structure Inv (s : State) : Prop where
  memCanonical : Memory.wf s.mem
  memInBuffers : ∀ c ∈ s.mem, inBuffers c.1
  /-- R24: `CFG.SIZE` always holds a value in 2..8. -/
  sizeInRange : 2 ≤ s.size.toNat ∧ s.size.toNat ≤ 8
  /-- R37: at most 64 messages. -/
  queueBound : s.q.length ≤ 64
  /-- R132: every delivered message has at most 8 bytes. -/
  queuePayload : ∀ m ∈ s.q, m.data.length ≤ 8
  /-- R30: ICONT is 0..128. -/
  iContBound : s.iCont.toNat ≤ 128
  /-- R78: in S1, ICONT is 1..128; R110: S1 is held during a READ only. -/
  s1Running : s.rxState = .s1 → 1 ≤ s.iCont.toNat ∧ s.rxBusy = true
  /-- R121: the bytes assembled after `ICONT - 1` continuations. -/
  s1Length : s.rxState = .s1 → s.rxLen.toNat ≤ 7 * s.iCont.toNat
  /-- R112, R113, R115, R118: a READ in S0 has assembled nothing. -/
  s0Length : s.rxBusy = true → s.rxState = .s0 → s.rxLen = 0#16
  /-- R121: RXBUF cannot overflow. -/
  rxLenBound : s.rxLen.toNat ≤ 896
  /-- R33: the first RX_LEN bytes of RXBUF are valid. -/
  rxWritten : ∀ k, k < s.rxLen.toNat → written .rx k s.mem
  txRunning : s.txBusy = true → TxInv s
  /-- R110: a READ runs only while open. -/
  rxRunning : s.rxBusy = true → s.isOpen = true
  /-- R155: OPEN and CLOSE overlap no other command. -/
  ctlAlone : s.ctlBusy = true → s.txBusy = false ∧ s.rxBusy = false
  /-- R85: a result is NONE while its channel's command runs. -/
  ctlResNone : s.ctlBusy = true → s.ctlRes = .none
  txResNone : s.txBusy = true → s.txRes = .none
  rxResNone : s.rxBusy = true → s.rxRes = .none
  wires : s.wiresClear

/-- A host move. -/
def Turn.isHost : Turn → Bool
  | .host _ _ => true
  | .bus _ _ => true
  | .ctl _ => false
  | .tx _ => false
  | .rx _ => false
  | .reset => false

/-- A run has ended: the host has no further access to make and no engine is busy (R191). -/
def Ended (s : State) : Prop :=
  (∀ t ∈ s.turns, t.isHost = false) ∧ s.ctlBusy = false ∧ s.txBusy = false ∧ s.rxBusy = false

/-- A good end: ended with `CMD_ERR = 0`; a bus-error fault leaves no state at all (R191, R154, R156). -/
def GoodEnd (s : State) : Prop := Ended s ∧ s.cmdErr = false

/-- The frames of a message after its first: index `i` on, `k` of them (R77). -/
def contFrames (nb i : Nat) (m : List Byte) : Nat → List Frame
  | 0 => []
  | k + 1 => (BitVec.ofNat 8 i :: m.take nb) :: contFrames nb (i + 1) (m.drop nb) k

/-- The frames of a message with `nb` payload bytes a frame (R74 to R77, R108). -/
def segFrames (nb : Nat) (m : List Byte) : List Frame :=
  if m.length ≤ nb then [0x00#8 :: m]
  else (BitVec.ofNat 8 (0x80 + (m.length - 1) / nb) :: m.take nb) :: contFrames nb 1 (m.drop nb) ((m.length - 1) / nb)

/-- A message that passes the filter (R143). -/
def passes (s : State) (m : CanMsg) : Bool := m.status == false && m.ext == s.rxExt && m.id == s.rxId

/-- A device answer to a batch request that is no error: withheld, or a batch of the device contract (42_can_dispatch.md
R132) that is not empty (R138). -/
def goodAnswer : Option ReadAnswer → Prop
  | none => True
  | some .err => False
  | some (.batch ms) => ms ≠ [] ∧ ms.length ≤ 64 ∧ ∀ m ∈ ms, m.data.length ≤ 8

/-- The messages a READ examines in its next moves, in order: the queue's, then each batch's as it is fetched (R137, R144, 20_memory.md
R62). -/
def examined : List CanMsg → List (Option ReadAnswer) → List CanMsg
  | _, [] => []
  | m :: q, _ :: as => m :: examined q as
  | [], some (.batch ms) :: as => examined ms as
  | [], _ :: as => examined [] as

/-- The class the RX engine decodes in the next step, if it decodes a frame in it (R16, R137). -/
def decodesNext (s : State) : Option Instr :=
  match s.turns, s.q with
  | .rx _ :: _, m :: _ => if s.rxBusy && passes s m then some (rxClass s m.data) else none
  | _, _ => none

/-- The three frame-synchronisation errors (R126). -/
def isAnomaly : Instr → Bool
  | .rxZeroLen _ => true
  | .rxMalformed _ => true
  | .rxOutOfSeq _ => true
  | _ => false

/-- The direction of an access: a write. -/
def Access.isWrite : Access → Bool
  | .w8 _ => true
  | .w16 _ => true
  | .w32 _ => true
  | .r8 => false
  | .r16 => false
  | .r32 => false

/-- The bytes an access touches. -/
def Access.bytes : Access → Nat
  | .w8 _ => 1
  | .w16 _ => 2
  | .w32 _ => 4
  | .r8 => 1
  | .r16 => 2
  | .r32 => 4

/-- The table of R157, row by row: the accesses that are bus errors. -/
def busErrorCase (s : State) (off : BitVec 12) (acc : Access) : Prop :=
  let a := off.toNat
  let register := a < 0x030
  let txbuf := 0x400 ≤ a ∧ a < 0x780
  let rxbuf := 0x800 ≤ a ∧ a < 0xB80
  ((0x030 ≤ a ∧ a < 0x400) ∨ (0x780 ≤ a ∧ a < 0x800) ∨ 0xB80 ≤ a) ∨
  (register ∧ (acc.bytes ≠ 4 ∨ a % 4 ≠ 0)) ∨
  ((txbuf ∨ rxbuf) ∧ (acc.bytes = 2 ∨ (acc.bytes = 4 ∧ a % 4 ≠ 0))) ∨
  (acc.isWrite = true ∧ (a = 0x004 ∨ a = 0x018 ∨ a = 0x01C ∨ a = 0x020 ∨ a = 0x024 ∨ a = 0x02C ∨ rxbuf)) ∨
  (acc.isWrite = true ∧ txbuf ∧ s.txBusy = true) ∨
  (acc.isWrite = false ∧ rxbuf ∧ s.rxBusy = true) ∨
  (acc.isWrite = false ∧ (txbuf ∨ rxbuf) ∧ ∃ k, k < acc.bytes ∧ Memory.read s.mem (a + k) = none)

/-- The table of R155, row by row: the 32-bit register writes that raise `CmdError`. -/
def cmdErrorCase (s : State) (off : BitVec 12) (v : Word) : Prop :=
  let code := v.toNat % 256
  let a := off.toNat
  (a = 0x000 ∧ code ≠ 0x01 ∧ code ≠ 0x02 ∧ code ≠ 0x10 ∧ code ≠ 0x20) ∨
  (a = 0x000 ∧ code = 0x01 ∧ (s.isOpen = true ∨ s.ctlBusy = true ∨ s.txBusy = true ∨ s.rxBusy = true)) ∨
  (a = 0x000 ∧ code = 0x02 ∧ (s.ctlBusy = true ∨ s.txBusy = true ∨ s.rxBusy = true)) ∨
  (a = 0x000 ∧ code = 0x10 ∧ (s.txBusy = true ∨ s.ctlBusy = true)) ∨
  (a = 0x000 ∧ code = 0x20 ∧ (s.rxBusy = true ∨ s.ctlBusy = true)) ∨
  ((a = 0x008 ∨ a = 0x00C ∨ a = 0x010) ∧ (s.isOpen = true ∨ s.ctlBusy = true)) ∨
  (a = 0x008 ∧ (v.toNat % 16 < 2 ∨ 8 < v.toNat % 16)) ∨
  (a = 0x014 ∧ s.txBusy = true)

end Sys2Proof.Machine
end

