-- ==== Sys2Proof/Certificates/Slice0/Obligations.lean ====
section
/-! DEFINITION. The statements for the provers. Each docstring names the rule it formalises. -/

open Sys2Proof Sys2Proof.Machine

/-! ## Encodings -/

/-- The encoder and the decoder agree on every well-formed instruction under the condition its row states
(30_encoding.md R72 to R83, R94). -/
def Obligations.DecodeInvertsEncode : Prop :=
  ∀ (c : DecodeCtx) (i : Instr), i.wf = true → c.fits i = true → decode c (encode i) = .ok i

/-- No bit of a decoded word is dropped but the ignored bits 31:8 of a command word (R22), and the decoded
instruction meets its row's condition. -/
def Obligations.EncodeInvertsDecode : Prop :=
  ∀ (c : DecodeCtx) (w : Encoded) (i : Instr), decode c w = .ok i →
    c.fits i = true ∧
    encode i = (match w with
      | .cmd v => .cmd (v &&& 0xFF#32)
      | .segTx ctl => .segTx ctl
      | .segRx d => .segRx d
      | .canf f => .canf f
      | .devq => .devq
      | .cantx => .cantx)

/-- With ICONT not 0, as in every S1 (R78), the decoder answers only well-formed instructions. -/
def Obligations.DecodedIsWellFormed : Prop :=
  ∀ (c : DecodeCtx) (w : Encoded) (i : Instr), c.iCont ≠ 0#8 → decode c w = .ok i → i.wf = true

/-- R78, R79: the decode word, and the six receive classes, row by row, for every frame in every state. -/
def Obligations.ReceiveClassTable : Prop :=
  ∀ (s : State) (f : Frame),
    decode (decodeCtx s) (.segRx (frameDw s f)) = .ok (rxClass s f) ∧
    (f = [] → rxClass s f = .rxZeroLen s.rxState ∧ (frameDw s f).toNat = if s.rxState = .s1 then 2 ^ 9 else 0) ∧
    (∀ ctl rest, f = ctl :: rest →
      (frameDw s f).toNat = (if s.rxState = .s1 then 2 ^ 9 else 0) + 2 ^ 8 + ctl.toNat ∧
      (s.rxState = .s0 → ctl.toNat = 0x00 → rxClass s f = .rxSingle) ∧
      (s.rxState = .s0 → 0x01 ≤ ctl.toNat → ctl.toNat ≤ 0x7F → rxClass s f = .rxMalformed (BitVec.ofNat 7 ctl.toNat)) ∧
      (s.rxState = .s0 → 0x80 ≤ ctl.toNat → rxClass s f = .rxStart (BitVec.ofNat 7 (ctl.toNat - 0x80))) ∧
      (s.rxState = .s1 → ctl.toNat < 0x80 → ctl = s.iCont → rxClass s f = .rxCont (BitVec.ofNat 7 ctl.toNat)) ∧
      (s.rxState = .s1 → (0x80 ≤ ctl.toNat ∨ ctl ≠ s.iCont) → rxClass s f = .rxOutOfSeq ctl) ∧
      (s.rxState = .s1 → 1 ≤ s.iCont.toNat → ctl.toNat = 0x00 → rxClass s f = .rxOutOfSeq ctl))

/-- R81: the filter word, and the four filter classes, for every message under every configured filter. -/
def Obligations.FilterClassTable : Prop :=
  ∀ (s : State) (m : CanMsg),
    (msgFw m).toNat = 2 ^ 33 * m.status.toNat + 2 ^ 32 * m.ext.toNat + m.id.toNat ∧
    decode (decodeCtx s) (.canf (msgFw m)) = .ok (fltClass s m) ∧
    (m.status = true → fltClass s m = .fltStatus m.ext m.id) ∧
    (m.status = false → m.ext ≠ s.rxExt → fltClass s m = .fltExtMismatch m.ext m.id) ∧
    (m.status = false → m.ext = s.rxExt → m.id ≠ s.rxId → fltClass s m = .fltIdMismatch m.ext m.id) ∧
    (m.status = false → m.ext = s.rxExt → m.id = s.rxId → fltClass s m = .fltMatch m.ext m.id)

/-- R83, R84: the command codes, for every word written to CMD; bits 31:8 do not matter. -/
def Obligations.CommandCodeTable : Prop :=
  ∀ v : Word,
    (v.toNat % 256 = 0x01 → decodeCmd v = .cmdOpen) ∧
    (v.toNat % 256 = 0x02 → decodeCmd v = .cmdClose) ∧
    (v.toNat % 256 = 0x10 → decodeCmd v = .cmdWrite) ∧
    (v.toNat % 256 = 0x20 → decodeCmd v = .cmdRead) ∧
    (v.toNat % 256 ≠ 0x01 → v.toNat % 256 ≠ 0x02 → v.toNat % 256 ≠ 0x10 → v.toNat % 256 ≠ 0x20 →
      decodeCmd v = .cmdReserved (BitVec.ofNat 8 v.toNat))

/-- R100: the frame each TX engine step emits, the four rows of the table. -/
def Obligations.TransmitFrameSelection : Prop :=
  ∀ (s : State) (a : Option Answer) (rest : List Turn), s.turns = .tx a :: rest → s.txBusy = true → s.txFrame = none →
    s.txOff.toNat ≤ s.txN.toNat →
    (s.txN.toNat - s.txOff.toNat > s.txNb.toNat → s.txI.toNat = 0 →
      select s = .run (.txStart (BitVec.ofNat 7 ((s.txN.toNat - 1) / s.txNb.toNat)))) ∧
    (s.txN.toNat - s.txOff.toNat > s.txNb.toNat → 1 ≤ s.txI.toNat →
      select s = .run (.txCont (BitVec.ofNat 7 s.txI.toNat))) ∧
    (s.txN.toNat - s.txOff.toNat ≤ s.txNb.toNat → s.txI.toNat = 0 → select s = .run .txSingle) ∧
    (s.txN.toNat - s.txOff.toNat ≤ s.txNb.toNat → 1 ≤ s.txI.toNat →
      select s = .run (.txContLast (BitVec.ofNat 7 s.txI.toNat)))

/-- R88: in every state a run can reach, the control byte the transmitter produces is that of a well-formed
single, start or continuation and never 0x80. -/
def Obligations.TransmitterControlBytes : Prop :=
  ∀ s : State, Inv s → s.txBusy = true →
    (txClass s).wf = true ∧
    ∃ ctl, encode (txClass s) = .segTx ctl ∧ ctl ≠ 0x80#8 ∧ decode (decodeCtx s) (.segTx ctl) = .ok (txClass s)

/-- Words written out from the encodings of 30_encoding.md and the vectors of 95_test_vectors.md. -/
def Obligations.SampleWordsDecode : Prop :=
  ∀ c : DecodeCtx, c.iCont = 1#8 → c.rxExt = false → c.rxId = 0x321#32 → c.txFinal = false →
    decode c (.cmd 0x00000010#32) = .ok .cmdWrite ∧ decode c (.cmd 0xFFFFFF02#32) = .ok .cmdClose ∧
    decode c (.segTx 0x82#8) = .ok (.txStart 2#7) ∧ decode c (.segTx 0x01#8) = .ok (.txCont 1#7) ∧
    decode c (.segRx 0x17F#10) = .ok (.rxMalformed 127#7) ∧ decode c (.segRx 0x301#10) = .ok (.rxCont 1#7) ∧
    decode c (.segRx 0x381#10) = .ok (.rxOutOfSeq 0x81#8) ∧ decode c (.canf 0x000000321#34) = .ok (.fltMatch false 0x321#32) ∧
    decode c (.canf 0x100000321#34) = .ok (.fltExtMismatch true 0x321#32)

/-! ## A step runs the decoded instruction -/

/-- R16, R22, R100, R137: one step is the instruction its move decodes to. A command word runs as the command it
decodes to, each engine's move as the operation selected, and FLT.MATCH with the decode of the frame it delivers; then the
move is spent (`endTurn`, log entry 4). -/
def Obligations.StepRunsDecodedInstruction : Prop :=
  ∀ (s : State) (rest : List Turn), s.wiresClear →
    (∀ c v i, s.turns = .host 0x000#12 (.w32 v) :: rest → decode c (.cmd v) = .ok i →
      step s = mapNext endTurn (exec i s)) ∧
    (∀ a, s.turns = .ctl a :: rest → s.ctlBusy = true → s.isOpen = false → step s = mapNext endTurn (exec .cmdOpen s)) ∧
    (∀ a, s.turns = .ctl a :: rest → s.ctlBusy = true → s.isOpen = true → step s = mapNext endTurn (exec .cmdClose s)) ∧
    (∀ a, s.turns = .tx a :: rest → s.txBusy = true → step s = mapNext endTurn (exec (txClass s) s)) ∧
    (∀ a, s.turns = .rx a :: rest → s.rxBusy = true → s.q = [] → step s = mapNext endTurn (exec .devqFetch s)) ∧
    (∀ a m q i, s.turns = .rx a :: rest → s.rxBusy = true → s.q = m :: q → passes s m = false →
      decode (decodeCtx s) (.canf (msgFw m)) = .ok i → step s = mapNext endTurn (exec i s)) ∧
    (∀ a m q s' j, s.turns = .rx a :: rest → s.rxBusy = true → s.q = m :: q → passes s m = true →
      exec (.fltMatch m.ext m.id) s = .next s' → decode (decodeCtx s') (.segRx (frameDw s' m.data)) = .ok j →
      step s = mapNext endTurn (exec j s'))

/-- The model's own loading (log entry 7): after `withFetchWord` the next move is the instruction the table word decodes to. -/
def Obligations.StagedWordIsNextInstruction : Prop :=
  ∀ (s : State) (nbits w : Nat) (i : Instr), decodeTableWord nbits w = some i →
    select (s.withFetchWord nbits w) = .run i ∨
    ∃ v, select (s.withFetchWord nbits w) = .access 0x000#12 (.w32 v) ∧ decodeCmd v = i

/-! ## Commands -/

/-- R134: OPEN, its issue step by a host write and its engine step by the CTL engine. -/
def Obligations.OpenCommand : Prop :=
  ∀ (s : State) (rest : List Turn),
    (∀ v : Word, v.toNat % 256 = 0x01 → decodeCmd v = .cmdOpen) ∧
    (∀ off acc, s.turns = .host off acc :: rest →
      (s.isOpen = true ∨ s.ctlBusy = true ∨ s.txBusy = true ∨ s.rxBusy = true → exec .cmdOpen s = .next { s with cmdErr := true }) ∧
      (s.isOpen = false → s.ctlBusy = false → s.txBusy = false → s.rxBusy = false →
        exec .cmdOpen s = .next { s with ctlBusy := true, ctlRes := .none })) ∧
    (s.turns = .ctl none :: rest → exec .cmdOpen s = .next s) ∧
    (s.turns = .ctl (some .err) :: rest →
      exec .cmdOpen s = .next { s with ctlBusy := false, ctlRes := .openFail, devLog := s.devLog ++ [.open_ .err] }) ∧
    (s.turns = .ctl (some .ok) :: rest →
      exec .cmdOpen s = .next { s with
        q := [], isOpen := true, ctlBusy := false, ctlRes := .ok, devLog := s.devLog ++ [.open_ .ok] })

/-- R136: CLOSE, its issue step by a host write and its engine step by the CTL engine. -/
def Obligations.CloseCommand : Prop :=
  ∀ (s : State) (rest : List Turn),
    (∀ v : Word, v.toNat % 256 = 0x02 → decodeCmd v = .cmdClose) ∧
    (∀ off acc, s.turns = .host off acc :: rest →
      (s.ctlBusy = true ∨ s.txBusy = true ∨ s.rxBusy = true → exec .cmdClose s = .next { s with cmdErr := true }) ∧
      (s.ctlBusy = false → s.txBusy = false → s.rxBusy = false → s.isOpen = true →
        exec .cmdClose s = .next { s with ctlBusy := true, ctlRes := .none }) ∧
      (s.ctlBusy = false → s.txBusy = false → s.rxBusy = false → s.isOpen = false →
        exec .cmdClose s = .next { s with ctlRes := .notOpen })) ∧
    (s.turns = .ctl none :: rest → exec .cmdClose s = .next s) ∧
    (s.turns = .ctl (some .ok) :: rest →
      exec .cmdClose s = .next { s with
        q := [], isOpen := false, ctlBusy := false, ctlRes := .ok, devLog := s.devLog ++ [.close .ok] }) ∧
    (s.turns = .ctl (some .err) :: rest →
      exec .cmdClose s = .next { s with
        q := [], isOpen := false, ctlBusy := false, ctlRes := .closeFail, devLog := s.devLog ++ [.close .err] })

/-- R96, R97, R98: the issue of a WRITE, every outcome; the checks in the order of R161. -/
def Obligations.WriteCommand : Prop :=
  ∀ s : State, 2 ≤ s.size.toNat → s.size.toNat ≤ 8 →
    (s.txBusy = true ∨ s.ctlBusy = true → exec .cmdWrite s = .next { s with cmdErr := true }) ∧
    (s.txBusy = false → s.ctlBusy = false →
      (s.isOpen = false → exec .cmdWrite s = .next { s with txCount := 0#16, txRes := .notOpen }) ∧
      (s.isOpen = true →
        (128 * (s.size.toNat - 1) < s.txLen.toNat →
          exec .cmdWrite s = .next { s with
            txCount := 0#16, txRes := .tooLong, txN := s.txLen, txNb := BitVec.ofNat 3 (s.size.toNat - 1), txOff := 0#16, txI := 0#8 }) ∧
        (s.txLen.toNat ≤ 128 * (s.size.toNat - 1) →
          ((∃ k, k < s.txLen.toNat ∧ Memory.read s.mem (0x400 + k) = none) → exec .cmdWrite s = .fault .unwrittenMessage) ∧
          ((∀ k, k < s.txLen.toNat → Memory.read s.mem (0x400 + k) ≠ none) →
            exec .cmdWrite s = .next { s with
              txBusy := true, txCount := 0#16, txRes := .none, txN := s.txLen, txNb := BitVec.ofNat 3 (s.size.toNat - 1)
              txOff := 0#16, txI := 0#8 }))))

/-- R110, R112: the issue of a READ. ERRCNT, the queue and RXBUF carry over. -/
def Obligations.ReadCommand : Prop :=
  ∀ s : State,
    (s.rxBusy = true ∨ s.ctlBusy = true → exec .cmdRead s = .next { s with cmdErr := true }) ∧
    (s.rxBusy = false → s.ctlBusy = false →
      (s.isOpen = true → exec .cmdRead s = .next { s with rxBusy := true, rxRes := .none, rxLen := 0#16, rxState := .s0 }) ∧
      (s.isOpen = false → exec .cmdRead s = .next { s with rxRes := .notOpen, rxLen := 0#16 }))

/-- R84: a reserved code, written by the host at CMD, raises CmdError and does nothing else. -/
def Obligations.ReservedCommandCode : Prop :=
  ∀ (s : State) (v : Word) (rest : List Turn), s.turns = .host 0x000#12 (.w32 v) :: rest → s.wiresClear →
    v.toNat % 256 ≠ 0x01 → v.toNat % 256 ≠ 0x02 → v.toNat % 256 ≠ 0x10 → v.toNat % 256 ≠ 0x20 →
    decodeCmd v = .cmdReserved (BitVec.ofNat 8 v.toNat) ∧
    exec (.cmdReserved (BitVec.ofNat 8 v.toNat)) s = .next { s with cmdErr := true } ∧
    step s = .next { s with cmdErr := true, turns := rest }

/-! ## Transmission -/

/-- R101, R103, with the message's status flags the model's choice (log entry 17): TX.START and a full TX.CONT, with the device accepting, rejecting or withholding its answer. Nothing but
the fields named changes, and no byte of memory. -/
def Obligations.TransmitNonFinalFrame : Prop :=
  ∀ (s : State) (rest : List Turn) (bytes : List Byte) (i : Instr) (ctl : Byte) (kind : TraceKind),
    ((∃ n, i = .txStart n ∧ ctl.toNat = 0x80 + n.toNat ∧ kind = .start) ∨
      (∃ k, i = .txCont k ∧ ctl.toNat = k.toNat ∧ kind = .cont)) →
    s.txFrame = none → s.txRet = none → s.txOff.toNat + s.txNb.toNat ≤ 896 →
    Memory.readBytes s.mem (0x400 + s.txOff.toNat) s.txNb.toNat = some bytes →
    (s.turns = .tx (some .ok) :: rest →
      exec i s = .next { s with
        txOff := BitVec.ofNat 16 (s.txOff.toNat + s.txNb.toNat), txI := BitVec.ofNat 8 (s.txI.toNat + 1)
        devLog := s.devLog ++ [.write (carried s (ctl :: bytes)) .ok], trace := traced s .tx kind (ctl :: bytes) }) ∧
    (s.turns = .tx (some .err) :: rest →
      exec i s = .next { s with
        txCount := s.txOff, txRes := .devWriteErr, txBusy := false
        devLog := s.devLog ++ [.write (carried s (ctl :: bytes)) .err] }) ∧
    (s.turns = .tx none :: rest → exec i s = .next s)

/-- R102, R103, R104: TX.SINGLE and TX.CONT.LAST. The submitted message's status flags are the model's choice (log entry 17). -/
def Obligations.TransmitFinalFrame : Prop :=
  ∀ (s : State) (rest : List Turn) (bytes : List Byte) (i : Instr) (ctl : Byte) (kind : TraceKind),
    ((i = .txSingle ∧ ctl.toNat = 0 ∧ kind = .single) ∨ (∃ k, i = .txContLast k ∧ ctl.toNat = k.toNat ∧ kind = .cont)) →
    s.txFrame = none → s.txRet = none → s.txOff.toNat ≤ s.txN.toNat → s.txN.toNat - s.txOff.toNat ≤ s.txNb.toNat →
    s.txN.toNat ≤ 896 →
    Memory.readBytes s.mem (0x400 + s.txOff.toNat) (s.txN.toNat - s.txOff.toNat) = some bytes →
    (s.turns = .tx (some .ok) :: rest →
      exec i s = .next { s with
        txCount := s.txN, txRes := .ok, txBusy := false
        devLog := s.devLog ++ [.write (carried s (ctl :: bytes)) .ok], trace := traced s .tx kind (ctl :: bytes) }) ∧
    (s.turns = .tx (some .err) :: rest →
      exec i s = .next { s with
        txCount := s.txOff, txRes := .devWriteErr, txBusy := false
        devLog := s.devLog ++ [.write (carried s (ctl :: bytes)) .err] }) ∧
    (s.turns = .tx none :: rest → exec i s = .next s)

/-- R146, R147: CANTX.FRAME submits the frame handed to it as one data message on (TX_ID, TX_EXT), capped at 8 bytes, and
returns the device's answer; a frame of at most 8 bytes is not cut. -/
def Obligations.CanFrameTransmit : Prop :=
  ∀ (s : State) (rest : List Turn) (f : Frame) (a : Answer), s.txFrame = some f → s.turns = .tx (some a) :: rest →
    ∃ m : CanMsg, exec .cantxFrame s = .next { s with devLog := s.devLog ++ [.write m a], txFrame := none, txRet := some a } ∧
      m.id = s.txId ∧ m.ext = s.txExt ∧ m.status = false ∧ m.data.length = min f.length 8 ∧
      (∀ k, k < 8 → m.data[k]? = f[k]?) ∧ (f.length ≤ 8 → m.data = f)

/-! ## Reception -/

/-- R113: a zero-length frame, in either state. -/
def Obligations.ReceiveZeroLength : Prop :=
  ∀ (s : State) (st : RxState), s.rxFrame = some [] →
    rxClass s [] = .rxZeroLen s.rxState ∧
    exec (.rxZeroLen st) s = .next { s with
      errCnt := s.errCnt + 1#32, rxState := .s0, rxLen := 0#16, trace := traced s .rx .unknown [], rxFrame := none }

/-- R114: a single frame. RXBUF holds its payload from offset 0 and no other byte of memory changes. -/
def Obligations.ReceiveSingle : Prop :=
  ∀ (s : State) (ctl : Byte) (p : List Byte), s.rxFrame = some (ctl :: p) → p.length ≤ 7 →
    (s.rxState = .s0 → (rxClass s (ctl :: p) = .rxSingle ↔ ctl = 0x00#8)) ∧
    ∃ m', exec .rxSingle s = .next { s with
        mem := m', rxLen := BitVec.ofNat 16 p.length, rxRes := .ok, rxBusy := false, trace := traced s .rx .single (ctl :: p)
        rxFrame := none } ∧
      holdsAt m' 0x800 p ∧ sameOutside s.mem m' 0x800 p.length

/-- R115: a malformed frame is counted, traced and discarded. -/
def Obligations.ReceiveMalformed : Prop :=
  ∀ (s : State) (n : BitVec 7) (f : Frame), s.rxFrame = some f →
    (∀ ctl p, f = ctl :: p → s.rxState = .s0 → (rxClass s f = .rxMalformed n ↔ ctl.toNat = n.toNat ∧ n ≠ 0#7)) ∧
    exec (.rxMalformed n) s = .next { s with
      errCnt := s.errCnt + 1#32, trace := traced s .rx .unknown f, rxFrame := none }

/-- R116: a start frame sets NCONT to its count and ICONT to 1 (conflict C1), and enters S1. -/
def Obligations.ReceiveStart : Prop :=
  ∀ (s : State) (n : BitVec 7) (ctl : Byte) (p : List Byte), s.rxFrame = some (ctl :: p) → p.length ≤ 7 →
    (s.rxState = .s0 → (rxClass s (ctl :: p) = .rxStart n ↔ ctl.toNat = 0x80 + n.toNat)) ∧
    ∃ m', exec (.rxStart n) s = .next { s with
        mem := m', nCont := n, iCont := 1#8, rxLen := BitVec.ofNat 16 p.length, rxState := .s1
        trace := traced s .rx .start (ctl :: p), rxFrame := none } ∧
      holdsAt m' 0x800 p ∧ sameOutside s.mem m' 0x800 p.length

/-- R117: an accepted continuation is appended at RX_LEN; the last one completes the READ, any other advances ICONT. -/
def Obligations.ReceiveContinuation : Prop :=
  ∀ (s : State) (i : BitVec 7) (ctl : Byte) (p : List Byte), s.rxFrame = some (ctl :: p) → s.rxLen.toNat + p.length ≤ 896 →
    (s.rxState = .s1 → (rxClass s (ctl :: p) = .rxCont i ↔ ctl.toNat = i.toNat ∧ ctl = s.iCont)) ∧
    ∃ m', holdsAt m' (0x800 + s.rxLen.toNat) p ∧ sameOutside s.mem m' (0x800 + s.rxLen.toNat) p.length ∧
      (s.iCont.toNat = s.nCont.toNat → exec (.rxCont i) s = .next { s with
        mem := m', rxLen := BitVec.ofNat 16 (s.rxLen.toNat + p.length), trace := traced s .rx .cont (ctl :: p)
        rxState := .s0, rxRes := .ok, rxBusy := false, rxFrame := none }) ∧
      (s.iCont.toNat ≠ s.nCont.toNat → exec (.rxCont i) s = .next { s with
        mem := m', rxLen := BitVec.ofNat 16 (s.rxLen.toNat + p.length), trace := traced s .rx .cont (ctl :: p)
        iCont := BitVec.ofNat 8 (s.iCont.toNat + 1), rxFrame := none })

/-- R118: an out-of-sequence frame is counted, traced and discarded, and the message in progress abandoned. -/
def Obligations.ReceiveOutOfSequence : Prop :=
  ∀ (s : State) (ctl : Byte) (f : Frame), s.rxFrame = some f →
    (∀ p, f = ctl :: p → s.rxState = .s1 → (rxClass s f = .rxOutOfSeq ctl ↔ 0x80 ≤ ctl.toNat ∨ ctl ≠ s.iCont)) ∧
    exec (.rxOutOfSeq ctl) s = .next { s with
      errCnt := s.errCnt + 1#32, rxState := .s0, rxLen := 0#16, trace := traced s .rx .unknown f, rxFrame := none }

/-! ## The adapter -/

/-- R140, R141, R142, R145: a skipped message changes only Q and QLEVEL, through the whole step. -/
def Obligations.FilterSkipsOnlyPop : Prop :=
  ∀ (s : State) (m : CanMsg) (q : List CanMsg), s.q = m :: q →
    (m.status = true → fltClass s m = .fltStatus m.ext m.id) ∧
    (m.status = false → m.ext ≠ s.rxExt → fltClass s m = .fltExtMismatch m.ext m.id) ∧
    (m.status = false → m.ext = s.rxExt → m.id ≠ s.rxId → fltClass s m = .fltIdMismatch m.ext m.id) ∧
    (∀ e d, exec (.fltStatus e d) s = .next { s with q := q } ∧ exec (.fltExtMismatch e d) s = .next { s with q := q } ∧
      exec (.fltIdMismatch e d) s = .next { s with q := q }) ∧
    (∀ a rest, s.turns = .rx a :: rest → s.rxBusy = true → s.wiresClear →
      (m.status = true ∨ m.ext ≠ s.rxExt ∨ m.id ≠ s.rxId) → step s = .next { s with q := q, turns := rest })

/-- R143: a matching message is popped and its whole payload returned as the frame. -/
def Obligations.FilterMatchDelivers : Prop :=
  ∀ (s : State) (m : CanMsg) (q : List CanMsg) (e : Bool) (d : Word), s.q = m :: q →
    (m.status = false → m.ext = s.rxExt → m.id = s.rxId → fltClass s m = .fltMatch m.ext m.id) ∧
    exec (.fltMatch e d) s = .next { s with q := q, rxFrame := some m.data }

/-- R138, R120: the batch fetch, for every answer the device contract of R132 allows; outside a READ there is none. -/
def Obligations.BatchFetch : Prop :=
  ∀ (s : State) (rest : List Turn),
    (∀ a, s.turns = .rx a :: rest → s.wiresClear → s.rxBusy = false → step s = .next { s with turns := rest }) ∧
    (∀ a, s.turns = .rx a :: rest → s.wiresClear → s.rxBusy = true → s.q = [] → select s = .run .devqFetch) ∧
    (s.turns = .rx none :: rest → exec .devqFetch s = .next s) ∧
    (s.turns = .rx (some .err) :: rest → exec .devqFetch s = .next { s with
      rxState := .s0, rxLen := 0#16, rxRes := .devReadErr, rxBusy := false, devLog := s.devLog ++ [.read .err] }) ∧
    (s.turns = .rx (some (.batch [])) :: rest → exec .devqFetch s = .next { s with
      rxState := .s0, rxLen := 0#16, rxRes := .emptyBatch, rxBusy := false, devLog := s.devLog ++ [.read (.batch [])] }) ∧
    (∀ ms, s.turns = .rx (some (.batch ms)) :: rest → ms ≠ [] → ms.length ≤ 64 → (∀ m ∈ ms, m.data.length ≤ 8) →
      exec .devqFetch s = .next { s with q := ms, devLog := s.devLog ++ [.read (.batch ms)] })

/-! ## Host accesses -/

/-- R157, R156: a host access that is no word write at CMD faults exactly in the cases of the table. -/
def Obligations.BusErrorTable : Prop :=
  ∀ (s : State) (off : BitVec 12) (acc : Access),
    (busErrorCase s off acc → ∃ r, hostAccess off acc s = .fault r) ∧
    (¬busErrorCase s off acc → (∀ v, acc = .w32 v → off ≠ 0x000#12) → ∃ t, hostAccess off acc s = .next t) ∧
    (∀ v, ¬busErrorCase s off (.w32 v) → off = 0x000#12 → hostAccess off (.w32 v) s = exec (decodeCmd v) s)

/-- R154, R155: the illegal register writes raise CmdError and have no other effect; no other register write
that completes changes CMD_ERR. -/
def Obligations.CmdErrorTable : Prop :=
  ∀ (s : State) (off : BitVec 12) (v : Word) (rest : List Turn), s.turns = .host off (.w32 v) :: rest → off.toNat < 0x030 →
    off.toNat % 4 = 0 →
    (cmdErrorCase s off v → hostAccess off (.w32 v) s = .next { s with cmdErr := true }) ∧
    (¬cmdErrorCase s off v → ∀ t, hostAccess off (.w32 v) s = .next t → t.cmdErr = s.cmdErr)

/-- R45: a host read has no side effect, it only returns data; and the only writes that go on are those to CMD, CFG, TX_ID,
RX_ID, TX_LEN, TRACE and TXBUF. -/
def Obligations.HostReadsHaveNoSideEffect : Prop :=
  ∀ (s : State) (off : BitVec 12) (acc : Access) (rest : List Turn) (t : State), s.turns = .host off acc :: rest → s.wiresClear →
    step s = .next t →
    (acc.isWrite = false → ∃ d, t = { s with busOut := s.busOut ++ [d], turns := rest }) ∧
    (acc.isWrite = true → off ∈ [0x000#12, 0x008#12, 0x00C#12, 0x010#12, 0x014#12, 0x028#12] ∨
      (0x400 ≤ off.toNat ∧ off.toNat < 0x780))

/-- R21, R22, R26, R27, R31 to R34: what a 32-bit read of each register without packed fields returns. -/
def Obligations.RegisterReadValues : Prop :=
  ∀ s : State,
    hostAccess 0x000#12 .r32 s = .next { s with busOut := s.busOut ++ [.word 0#32] } ∧
    hostAccess 0x00C#12 .r32 s = .next { s with busOut := s.busOut ++ [.word s.txId] } ∧
    hostAccess 0x010#12 .r32 s = .next { s with busOut := s.busOut ++ [.word s.rxId] } ∧
    hostAccess 0x014#12 .r32 s = .next { s with busOut := s.busOut ++ [.word (BitVec.ofNat 32 s.txLen.toNat)] } ∧
    hostAccess 0x018#12 .r32 s = .next { s with busOut := s.busOut ++ [.word (BitVec.ofNat 32 s.txCount.toNat)] } ∧
    hostAccess 0x01C#12 .r32 s = .next { s with busOut := s.busOut ++ [.word (BitVec.ofNat 32 s.rxLen.toNat)] } ∧
    hostAccess 0x020#12 .r32 s = .next { s with busOut := s.busOut ++ [.word s.errCnt] } ∧
    (s.q.length ≤ 64 →
      hostAccess 0x02C#12 .r32 s = .next { s with busOut := s.busOut ++ [.word (BitVec.ofNat 32 s.q.length)] })

/-- R85: the code of each result, and R23, R28, R29, R35: the fields of the packed registers, as a host read returns them; reserved
bits read 0. -/
def Obligations.PackedRegisterLayout : Prop :=
  ([Res.none, .ok, .notOpen, .tooLong, .devReadErr, .emptyBatch, .devWriteErr, .openFail, .closeFail].map (fun r => r.code.toNat) =
    [0, 1, 2, 3, 4, 5, 6, 7, 8]) ∧
  ∀ s : State,
    (∃ v : Word, hostAccess 0x004#12 .r32 s = .next { s with busOut := s.busOut ++ [.word v] } ∧
      v.toNat = s.isOpen.toNat + 2 * s.ctlBusy.toNat + 4 * s.txBusy.toNat + 8 * s.rxBusy.toNat + 16 * s.cmdErr.toNat +
        2 ^ 8 * s.ctlRes.code.toNat + 2 ^ 12 * s.txRes.code.toNat + 2 ^ 16 * s.rxRes.code.toNat) ∧
    (∃ v : Word, hostAccess 0x008#12 .r32 s = .next { s with busOut := s.busOut ++ [.word v] } ∧
      v.toNat = s.size.toNat + 2 ^ 8 * s.txExt.toNat + 2 ^ 9 * s.rxExt.toNat) ∧
    (∃ v : Word, hostAccess 0x024#12 .r32 s = .next { s with busOut := s.busOut ++ [.word v] } ∧
      v.toNat = (if s.rxState = .s1 then 1 else 0) + 2 ^ 8 * s.iCont.toNat + 2 ^ 16 * s.nCont.toNat) ∧
    (∃ v : Word, hostAccess 0x028#12 .r32 s = .next { s with busOut := s.busOut ++ [.word v] } ∧ v.toNat = s.traceEn.toNat)

/-- R23, R24, R25, R26, R27, R31, R35: the legal writes of the configuration registers, of TX_LEN and of TRACE. -/
def Obligations.RegisterWrites : Prop :=
  ∀ (s : State) (v : Word),
    (s.isOpen = false → s.ctlBusy = false → 2 ≤ v.toNat % 16 → v.toNat % 16 ≤ 8 →
      hostAccess 0x008#12 (.w32 v) s = .next { s with
        size := BitVec.ofNat 4 v.toNat, txExt := v.toNat.testBit 8, rxExt := v.toNat.testBit 9 }) ∧
    (s.isOpen = false → s.ctlBusy = false → hostAccess 0x00C#12 (.w32 v) s = .next { s with txId := v }) ∧
    (s.isOpen = false → s.ctlBusy = false → hostAccess 0x010#12 (.w32 v) s = .next { s with rxId := v }) ∧
    (s.txBusy = false → hostAccess 0x014#12 (.w32 v) s = .next { s with txLen := BitVec.ofNat 16 v.toNat }) ∧
    (hostAccess 0x028#12 (.w32 v) s = .next { s with traceEn := v.toNat.testBit 0 })

/-- R49, R54, R55: a word written to TXBUF stands there little-endian, the other bytes of memory are unchanged, and the word
reads back; a byte likewise. -/
def Obligations.TxBufStoreLoad : Prop :=
  ∀ (s : State) (off : BitVec 12), 0x400 ≤ off.toNat → off.toNat < 0x780 → s.txBusy = false →
    (∀ v : Word, off.toNat % 4 = 0 → ∃ m', hostAccess off (.w32 v) s = .next { s with mem := m' } ∧
      (∀ k, k < 4 → Memory.read m' (off.toNat + k) = some (BitVec.ofNat 8 (v.toNat / 2 ^ (8 * k)))) ∧
      sameOutside s.mem m' off.toNat 4 ∧
      hostAccess off .r32 { s with mem := m' } = .next { s with mem := m', busOut := s.busOut ++ [.word v] }) ∧
    (∀ v : Byte, ∃ m', hostAccess off (.w8 v) s = .next { s with mem := m' } ∧
      Memory.read m' off.toNat = some v ∧ sameOutside s.mem m' off.toNat 1 ∧
      hostAccess off .r8 { s with mem := m' } = .next { s with mem := m', busOut := s.busOut ++ [.byte v] })

/-- R50, R51, R54: after a READ, RXBUF reads back byte by byte and word by word, little-endian. -/
def Obligations.RxBufLoad : Prop :=
  ∀ (s : State) (off : BitVec 12), 0x800 ≤ off.toNat → off.toNat < 0xB80 → s.rxBusy = false →
    (∀ b, Memory.read s.mem off.toNat = some b →
      hostAccess off .r8 s = .next { s with busOut := s.busOut ++ [.byte b] }) ∧
    (∀ b0 b1 b2 b3, off.toNat % 4 = 0 → Memory.read s.mem off.toNat = some b0 → Memory.read s.mem (off.toNat + 1) = some b1 →
      Memory.read s.mem (off.toNat + 2) = some b2 → Memory.read s.mem (off.toNat + 3) = some b3 →
      ∃ v : Word, hostAccess off .r32 s = .next { s with busOut := s.busOut ++ [.word v] } ∧
        v.toNat = b0.toNat + 2 ^ 8 * b1.toNat + 2 ^ 16 * b2.toNat + 2 ^ 24 * b3.toNat)

/-- R21, R58 with the OPEN parameter BASE (log entry 8): the bus addresses of the block are BASE + offset and no others. A host
access at BASE + offset steps as the access at that offset, its fault included; at an address outside the block only the move is
spent (the model's choice, log entry 2). -/
def Obligations.BlockAddressDecode : Prop :=
  (∀ off : BitVec 12, Config.blockOffset (Config.base + off.toNat) = some off) ∧
  (∀ addr, Config.blockOffset addr ≠ none ↔ Config.base ≤ addr ∧ addr < Config.base + 4096) ∧
  (∀ (s : State) (off : BitVec 12) (acc : Access) (rest : List Turn),
    step { s with turns := .bus (Config.base + off.toNat) acc :: rest } = step { s with turns := .host off acc :: rest }) ∧
  (∀ (s : State) (addr : Nat) (acc : Access) (rest : List Turn), s.wiresClear → s.turns = .bus addr acc :: rest →
    (addr < Config.base ∨ Config.base + 4096 ≤ addr) → step s = .next { s with turns := rest })

/-! ## Reset -/

/-- R44, R176: the values after reset, and what a host reads there. -/
def Obligations.ResetState : Prop :=
  statusWord State.reset = 0#32 ∧ cfgWord State.reset = 8#32 ∧ rxFsmWord State.reset = 0#32 ∧ State.reset.errCnt = 0#32 ∧
  State.reset.txId = 0#32 ∧ State.reset.rxId = 0#32 ∧ State.reset.txLen = 0#16 ∧ State.reset.txCount = 0#16 ∧
  State.reset.rxLen = 0#16 ∧ State.reset.traceEn = false ∧ State.reset.q = [] ∧ qLevelWord State.reset = 0#32 ∧
  State.reset.txN = 0#16 ∧ State.reset.txNb = 0#3 ∧ State.reset.txOff = 0#16 ∧ State.reset.txI = 0#8 ∧
  (∀ a, Memory.read State.reset.mem a = none) ∧ State.reset.trace = []

/-- R174: the reset move, in any state, sets every piece of SEGCAN's state to its reset value. That the moves to come and the
histories of what the device and the host have seen stay is the model's choice (log entry 9). -/
def Obligations.ResetMove : Prop :=
  ∀ (s : State) (rest : List Turn), s.turns = .reset :: rest →
    step s = .next { State.reset with turns := rest, devLog := s.devLog, busOut := s.busOut }

/-! ## Invariants and rules of the whole machine -/

/-- The invariant holds after reset. -/
def Obligations.InvariantAtReset : Prop := Inv State.reset

/-- R24, R30, R33, R37, R78, R85, R97, R112, R115, R121, R155: every step keeps the invariant, from every state that has it. -/
def Obligations.StepKeepsInvariant : Prop :=
  ∀ s t : State, Inv s → step s = .next t → Inv t

/-- R132, R158: SEGCAN never stops itself: under the invariant no engine's move faults, and it is refused only where the device
breaks its contract. -/
def Obligations.EngineMovesNeverFault : Prop :=
  ∀ (s : State) (t : Turn) (rest : List Turn), Inv s → s.turns = t :: rest → t.isHost = false →
    (∃ s', step s = .next s') ∨ ∃ ms, t = .rx (some (.batch ms)) ∧ ¬(ms.length ≤ 64 ∧ ∀ m ∈ ms, m.data.length ≤ 8)

/-- R154: CMD_ERR is sticky; only reset clears it. -/
def Obligations.CmdErrIsSticky : Prop :=
  ∀ (s t : State) (u : Turn) (rest : List Turn), s.turns = u :: rest → u ≠ .reset → s.cmdErr = true → step s = .next t →
    t.cmdErr = true

/-- R34, R126: ERRCNT rises by one for each frame that decodes as an anomaly and changes for nothing else but reset. -/
def Obligations.ErrCntCountsAnomalies : Prop :=
  ∀ (s t : State) (u : Turn) (rest : List Turn), s.wiresClear → s.turns = u :: rest → u ≠ .reset → step s = .next t →
    t.errCnt = s.errCnt + (match decodesNext s with | some i => if isAnomaly i then 1#32 else 0#32 | none => 0#32)

/-- R127: no rule reads ERRCNT: two states that differ only in it step to states that differ only in it and in what a host
read of it returned. -/
def Obligations.ErrCntIsNeverRead : Prop :=
  ∀ (s t : State) (e : Word), step s = .next t →
    ∃ t', step { s with errCnt := e } = .next t' ∧
      { t' with errCnt := 0#32, busOut := [] } = { t with errCnt := 0#32, busOut := [] }

/-- R35, R166: tracing alters no frame, state or result. -/
def Obligations.TraceAltersNothing : Prop :=
  ∀ (s t : State) (e : Bool) (l : List TraceEvent), step s = .next t →
    ∃ t', step { s with traceEn := e, trace := l } = .next t' ∧
      { t' with traceEn := false, trace := [], busOut := [] } = { t with traceEn := false, trace := [], busOut := [] }

/-- R129: a READ's OK comes only from a single frame or from the continuation whose index is NCONT. -/
def Obligations.ReadOkOnlyFromWholeMessage : Prop :=
  ∀ (s t : State), s.wiresClear → step s = .next t → s.rxRes ≠ .ok → t.rxRes = .ok →
    decodesNext s = some .rxSingle ∨ ∃ i, decodesNext s = some (.rxCont i) ∧ s.iCont.toNat = s.nCont.toNat

/-- R15, R49, R99, R170: a TX engine's move changes only the TX engine's own state, the trace port and what the device has seen. -/
def Obligations.TxMoveFrame : Prop :=
  ∀ (s t : State) (a : Option Answer) (rest : List Turn), s.turns = .tx a :: rest → s.wiresClear → step s = .next t →
    t = { s with
      txOff := t.txOff, txI := t.txI, txCount := t.txCount, txRes := t.txRes, txBusy := t.txBusy, trace := t.trace
      devLog := t.devLog, turns := rest }

/-- R15, R51, R170: an RX engine's move changes only the RX engine's own state, the queue, RXBUF, the trace port and what the
device has seen; TXBUF is unchanged. -/
def Obligations.RxMoveFrame : Prop :=
  ∀ (s t : State) (a : Option ReadAnswer) (rest : List Turn), s.turns = .rx a :: rest → s.wiresClear → step s = .next t →
    t = { s with
      rxLen := t.rxLen, errCnt := t.errCnt, rxState := t.rxState, iCont := t.iCont, nCont := t.nCont, rxRes := t.rxRes
      rxBusy := t.rxBusy, q := t.q, mem := t.mem, trace := t.trace, devLog := t.devLog, turns := rest } ∧
    ∀ x, ¬(0x800 ≤ x ∧ x < 0xB80) → Memory.read t.mem x = Memory.read s.mem x

/-- R46, R136, R170, R177: a CTL engine's move changes only OPEN, CTL_BUSY, CTL_RES, the queue and what the device has seen. -/
def Obligations.CtlMoveFrame : Prop :=
  ∀ (s t : State) (a : Option Answer) (rest : List Turn), s.turns = .ctl a :: rest → s.wiresClear → step s = .next t →
    t = { s with
      isOpen := t.isOpen, ctlBusy := t.ctlBusy, ctlRes := t.ctlRes, q := t.q, devLog := t.devLog, turns := rest }

/-- R15: no TX engine step depends on the RX engine's state: with the RX engine's state, the queue, the receive filter and RXBUF
replaced (any memory that agrees outside RXBUF), the same frame goes out with the same effect. -/
def Obligations.TxMoveIgnoresReceiver : Prop :=
  ∀ (s t r : State) (a : Option Answer) (rest : List Turn), s.turns = .tx a :: rest → s.wiresClear → step s = .next t →
    (∀ x, ¬(0x800 ≤ x ∧ x < 0xB80) → Memory.read r.mem x = Memory.read s.mem x) →
    step { s with
        rxLen := r.rxLen, errCnt := r.errCnt, rxState := r.rxState, iCont := r.iCont, nCont := r.nCont, rxRes := r.rxRes
        rxBusy := r.rxBusy, q := r.q, rxId := r.rxId, rxExt := r.rxExt, mem := r.mem } =
      .next { t with
        rxLen := r.rxLen, errCnt := r.errCnt, rxState := r.rxState, iCont := r.iCont, nCont := r.nCont, rxRes := r.rxRes
        rxBusy := r.rxBusy, q := r.q, rxId := r.rxId, rxExt := r.rxExt, mem := r.mem }

/-- R15, R7: no RX engine step depends on the TX engine's state: with the TX engine's state, TX_LEN, the transmit identifier, SIZE
and TXBUF replaced (any memory that agrees on RXBUF), the same messages are taken with the same effect, RXBUF after the step is
the same, and the replaced bytes stay. -/
def Obligations.RxMoveIgnoresTransmitter : Prop :=
  ∀ (s t r : State) (a : Option ReadAnswer) (rest : List Turn), s.turns = .rx a :: rest → s.wiresClear → step s = .next t →
    (∀ x, 0x800 ≤ x ∧ x < 0xB80 → Memory.read r.mem x = Memory.read s.mem x) →
    ∃ m', step { s with
        txLen := r.txLen, txCount := r.txCount, txBusy := r.txBusy, txRes := r.txRes, txN := r.txN, txNb := r.txNb
        txOff := r.txOff, txI := r.txI, txId := r.txId, txExt := r.txExt, size := r.size, mem := r.mem } =
      .next { t with
        txLen := r.txLen, txCount := r.txCount, txBusy := r.txBusy, txRes := r.txRes, txN := r.txN, txNb := r.txNb
        txOff := r.txOff, txI := r.txI, txId := r.txId, txExt := r.txExt, size := r.size, mem := m' } ∧
      (∀ x, 0x800 ≤ x ∧ x < 0xB80 → Memory.read m' x = Memory.read t.mem x) ∧
      ∀ x, ¬(0x800 ≤ x ∧ x < 0xB80) → Memory.read m' x = Memory.read r.mem x

/-- R25: while a session is open or being opened or closed, its configuration does not change but by reset. -/
def Obligations.OpenSessionKeepsConfiguration : Prop :=
  ∀ (s t : State) (u : Turn) (rest : List Turn), s.turns = u :: rest → u ≠ .reset →
    (s.isOpen = true ∨ s.ctlBusy = true) → step s = .next t →
    t.size = s.size ∧ t.txExt = s.txExt ∧ t.rxExt = s.rxExt ∧ t.txId = s.txId ∧ t.rxId = s.rxId

/-- R37, R144: the queue changes only by a pop of its head, by a fetch into it when empty, and by being emptied at OPEN, CLOSE
and reset. -/
def Obligations.QueueChangesOnlyAtHead : Prop :=
  ∀ (s t : State), s.wiresClear → step s = .next t →
    t.q = s.q ∨
    (∃ a rest, s.turns = .rx a :: rest ∧ s.rxBusy = true ∧ s.q ≠ [] ∧ t.q = s.q.tail) ∨
    (∃ ms rest, s.turns = .rx (some (.batch ms)) :: rest ∧ s.rxBusy = true ∧ s.q = [] ∧ t.q = ms) ∨
    (∃ a rest, s.turns = .ctl (some a) :: rest ∧ s.ctlBusy = true ∧ t.q = []) ∨
    (∃ rest, s.turns = .reset :: rest ∧ t.q = [])

/-- R122 (decision D15): a count-0 start never completes: in S1 with NCONT = 0 no step ends the READ with OK, and once ICONT is 128 the next
non-empty frame is out of sequence. -/
def Obligations.CountZeroStartNeverCompletes : Prop :=
  ∀ s : State, Inv s → s.rxState = .s1 → s.nCont = 0#7 →
    (∀ t, step s = .next t → t.rxRes ≠ .ok) ∧
    (s.iCont.toNat = 128 → ∀ ctl p, rxClass s (ctl :: p) = .rxOutOfSeq ctl)

/-- R130, R172, R184: a READ whose device withholds its answers stays busy without bound, its state unchanged. -/
def Obligations.ReadWaitsWithoutBound : Prop :=
  ∀ (n : Nat) (s : State), s.wiresClear → s.rxBusy = true → s.q = [] →
    Host.Core.run Sys2Proof.core n ({ s with turns := List.replicate n (.rx none) } : State) = .next ({ s with turns := [] } : State)

/-- R76, R108: how many frames a message takes, their control bytes, their payload lengths, and that the payloads in order are
the message. -/
def Obligations.FrameCountLaws : Prop :=
  ∀ (nb : Nat) (m : List Byte), 1 ≤ nb →
    ((m.length - 1) / nb ≤ 127 ↔ m.length ≤ 128 * nb) ∧
    (m.length ≤ nb → segFrames nb m = [0x00#8 :: m]) ∧
    (nb < m.length → m.length ≤ 128 * nb →
      (segFrames nb m).length = (m.length - 1) / nb + 1 ∧
      (segFrames nb m).map List.head? = some (BitVec.ofNat 8 (0x80 + (m.length - 1) / nb)) ::
        (List.range ((m.length - 1) / nb)).map (fun k => some (BitVec.ofNat 8 (k + 1))) ∧
      (segFrames nb m).map (fun f => (payload f).length) = List.replicate ((m.length - 1) / nb) nb ++
        [m.length - (m.length - 1) / nb * nb] ∧
      1 ≤ m.length - (m.length - 1) / nb * nb ∧ m.length - (m.length - 1) / nb * nb ≤ nb) ∧
    ((segFrames nb m).map payload).flatten = m

/-- R108, R104, R106: a WRITE of any message, every frame of it accepted, submits exactly the frames of R108 in order, changes
no memory, and completes OK with TX_COUNT the message's length. The submitted messages' status flags are the model's choice (log
entry 17). -/
def Obligations.WriteSubmitsTheFrames : Prop :=
  ∀ (s : State) (m : List Byte), s.wiresClear → s.txBusy = true → s.txOff = 0#16 → s.txI = 0#8 → 1 ≤ s.txNb.toNat →
    s.txN.toNat = m.length → m.length ≤ 128 * s.txNb.toNat → holdsAt s.mem 0x400 m →
    ∃ t : State,
      Host.Core.run Sys2Proof.core (segFrames s.txNb.toNat m).length
        ({ s with turns := List.replicate (segFrames s.txNb.toNat m).length (.tx (some .ok)) } : State) = .next t ∧
      t.devLog = s.devLog ++ (segFrames s.txNb.toNat m).map (fun f => .write (carried s f) .ok) ∧
      t.txRes = .ok ∧ t.txBusy = false ∧ t.txCount = s.txN ∧ t.mem = s.mem ∧ t.turns = []

/-- R131, R111: the frames of a message, delivered in order as the passing messages of whatever queue and batches the device
gives, among any messages that the filter skips and any waits, to a READ in S0 without a device error: the READ returns that
message with ERRCNT unchanged, whatever the receiver's SIZE. The frames are those a WRITE of the message submits
(`WriteSubmitsTheFrames`). -/
def Obligations.ReadReassemblesTheFrames : Prop :=
  ∀ (s : State) (nb : Nat) (m : List Byte) (answers : List (Option ReadAnswer)), s.wiresClear → s.rxBusy = true →
    s.rxState = .s0 → 1 ≤ nb → nb ≤ 7 → m.length ≤ 128 * nb → (∀ a ∈ answers, goodAnswer a) →
    ((examined s.q answers).filter (passes s)).map CanMsg.data = segFrames nb m →
    ∃ t : State,
      Host.Core.run Sys2Proof.core answers.length ({ s with turns := answers.map .rx } : State) = .next t ∧
      t.rxRes = .ok ∧ t.rxBusy = false ∧ t.rxLen.toNat = m.length ∧ Memory.readBytes t.mem 0x800 m.length = some m ∧
      t.errCnt = s.errCnt

/-- R190 (with the device's answers as a premise), R98: a running WRITE ends within 128 TX moves that the device answers. -/
def Obligations.WriteEndsWithin128Answers : Prop :=
  ∀ (s : State) (answers : List Answer), Inv s → s.txBusy = true → 128 ≤ answers.length →
    ∃ t : State,
      Host.Core.run Sys2Proof.core answers.length ({ s with turns := answers.map (fun a => .tx (some a)) } : State) = .next t ∧
      t.txBusy = false ∧ (t.txRes = .ok ∨ t.txRes = .devWriteErr)
end

