-- ==== Sys2Proof/Laws/Decode.lean ====
section
/-! SUPPORT. The fields of the control byte, of the decode word and of the filter word, each read back from what builds it. -/

namespace Sys2Proof

@[simp] theorem ctlLow_startCtl (n : BitVec 7) : ctlLow (startCtl n) = n := by
  revert n; decide

@[simp] theorem ctlStart_startCtl (n : BitVec 7) : ctlStart (startCtl n) = true := by
  revert n; decide

@[simp] theorem ctlLow_contCtl (n : BitVec 7) : ctlLow (contCtl n) = n := by
  revert n; decide

@[simp] theorem ctlStart_contCtl (n : BitVec 7) : ctlStart (contCtl n) = false := by
  revert n; decide

@[simp] theorem contCtl_eq_zero (n : BitVec 7) : contCtl n = 0x00#8 ↔ n = 0#7 := by
  revert n; decide

theorem contCtl_ctlLow {ctl : Byte} (h : ctlStart ctl = false) : contCtl (ctlLow ctl) = ctl := by
  revert ctl; decide

theorem startCtl_ctlLow {ctl : Byte} (h : ctlStart ctl = true) : startCtl (ctlLow ctl) = ctl := by
  revert ctl; decide

theorem ctlLow_eq_zero {ctl : Byte} (h : ctlStart ctl = false) : ctlLow ctl = 0#7 ↔ ctl = 0x00#8 := by
  revert ctl; decide

/-- The start bit is the value from 0x80 on (30_encoding.md R72). -/
theorem ctlStart_iff (ctl : Byte) : ctlStart ctl = true ↔ 0x80 ≤ ctl.toNat := by
  revert ctl; decide

theorem ctlLow_toNat (ctl : Byte) : (ctlLow ctl).toNat = ctl.toNat % 128 := by
  revert ctl; decide

theorem startCtl_toNat (n : BitVec 7) : (startCtl n).toNat = 0x80 + n.toNat := by
  revert n; decide

theorem contCtl_toNat (n : BitVec 7) : (contCtl n).toNat = n.toNat := by
  revert n; decide

@[simp] theorem dw_ctl (st : RxState) (ne : Bool) (ctl : Byte) : (dw st ne ctl).extractLsb' 0 8 = ctl := by
  revert st ne ctl; intro st ne; cases st <;> cases ne <;> decide

theorem dw_ne (st : RxState) (ne : Bool) (ctl : Byte) : (dw st ne ctl).getLsbD 8 = ne := by
  revert st ne ctl; intro st ne; cases st <;> cases ne <;> decide

theorem dw_state (st : RxState) (ne : Bool) (ctl : Byte) : RxState.ofBit ((dw st ne ctl).getLsbD 9) = st := by
  revert st ne ctl; intro st ne; cases st <;> cases ne <;> decide

/-- A decode word is its three fields. -/
theorem dw_fields (w : BitVec 10) : dw (RxState.ofBit (w.getLsbD 9)) (w.getLsbD 8) (w.extractLsb' 0 8) = w := by
  revert w; decide

/-- Any bit of a filter word, by its field. -/
theorem fw_getLsbD (status ext : Bool) (id : Word) (i : Nat) :
    (fw status ext id).getLsbD i = if i < 32 then id.getLsbD i else if i = 32 then ext else (i = 33 && status) := by
  show (((BitVec.ofBool status ++ BitVec.ofBool ext : BitVec (1 + 1)) ++ id : BitVec (1 + 1 + 32)).getLsbD i) = _
  rw [BitVec.getLsbD_append, BitVec.getLsbD_append]
  by_cases h : i < 32
  · simp [h]
  · by_cases h32 : i = 32
    · subst h32; simp
    · by_cases h33 : i = 33
      · subst h33; simp
      · have h1 : ¬(i - 32 < 1) := by omega
        have h2 : i - 32 - 1 ≠ 0 := by omega
        simp [h, h32, h33, h1, h2, BitVec.getLsbD_ofBool]

@[simp] theorem fw_id (status ext : Bool) (id : Word) : (fw status ext id).extractLsb' 0 32 = id := by
  apply BitVec.eq_of_getLsbD_eq
  intro i h
  simp [fw_getLsbD, h]

theorem fw_ext (status ext : Bool) (id : Word) : (fw status ext id).getLsbD 32 = ext := by
  rw [fw_getLsbD]; rfl

theorem fw_status (status ext : Bool) (id : Word) : (fw status ext id).getLsbD 33 = status := by
  rw [fw_getLsbD]; simp only [Nat.reduceLT, Nat.reduceEqDiff, if_false, decide_true, Bool.true_and]

/-- A filter word is its three fields. -/
theorem fw_fields (w : BitVec 34) : fw (w.getLsbD 33) (w.getLsbD 32) (w.extractLsb' 0 32) = w := by
  apply BitVec.eq_of_getLsbD_eq
  intro i h
  rw [fw_getLsbD]
  by_cases h32 : i < 32
  · simp [h32]
  · rcases (by omega : i = 32 ∨ i = 33) with rfl | rfl <;> simp

/-- A code in a command word is the code (10_state.md R22). -/
theorem cmdWord_toNat (code : Byte) : (0#24 ++ code : Word).toNat = code.toNat := by
  show ((0#24 ++ code : BitVec (24 + 8))).toNat = _
  rw [BitVec.toNat_append]; simp

theorem cmdWord_code (code : Byte) : (0#24 ++ code : Word).extractLsb' 0 8 = code := by
  apply BitVec.eq_of_toNat_eq
  rw [BitVec.extractLsb'_toNat, cmdWord_toNat]
  simpa using code.isLt

/-- Everything a command code can be (30_encoding.md R83, R84). -/
theorem decodeCode_cases (c : Byte) :
    (c = 0x01#8 ∧ decodeCode c = .cmdOpen) ∨ (c = 0x02#8 ∧ decodeCode c = .cmdClose) ∨
    (c = 0x10#8 ∧ decodeCode c = .cmdWrite) ∨ (c = 0x20#8 ∧ decodeCode c = .cmdRead) ∨
    (c ≠ 0x01#8 ∧ c ≠ 0x02#8 ∧ c ≠ 0x10#8 ∧ c ≠ 0x20#8 ∧ decodeCode c = .cmdReserved c) := by
  revert c; decide

end Sys2Proof
end

