-- ==== Sys2Proof/Laws/Memory.lean ====
section
/-! SUPPORT. The laws of the buffers' memory: read after write, the canonical form, and runs of bytes. -/

namespace Sys2Proof.Machine

@[simp] theorem Memory.read_nil (a : Nat) : Memory.read [] a = none := rfl

theorem Memory.read_cons (c : Host.Cell) (m : Memory) (a : Nat) :
    Memory.read (c :: m) a = if c.1 = a then some c.2 else Memory.read m a := rfl

theorem Memory.read_write (m : Memory) (a : Nat) (b : Byte) (x : Nat) :
    Memory.read (Memory.write m a b) x = if x = a then some b else Memory.read m x := by
  induction m with
  | nil => simp [Memory.write, Memory.read_cons, eq_comm]
  | cons c m ih =>
    unfold Memory.write
    split
    · simp [Memory.read_cons, eq_comm]
    · split
      · next h =>
        subst h
        by_cases hx : x = c.1 <;> simp [Memory.read_cons, hx, eq_comm]
      · next h1 h2 =>
        simp only [Memory.read_cons, ih]
        split
        · next h => rw [if_neg (by omega)]
        · rfl

@[simp] theorem Memory.read_write_same (m : Memory) (a : Nat) (b : Byte) :
    Memory.read (Memory.write m a b) a = some b := by simp [Memory.read_write]

theorem Memory.read_write_other (m : Memory) {a x : Nat} (b : Byte) (h : x ≠ a) :
    Memory.read (Memory.write m a b) x = Memory.read m x := by simp [Memory.read_write, h]

/-- The offsets of a memory after one write. -/
theorem Memory.mem_write {m : Memory} {a : Nat} {b : Byte} {c : Host.Cell} (h : c ∈ Memory.write m a b) :
    c = (a, b) ∨ c ∈ m := by
  induction m with
  | nil => simpa [Memory.write] using h
  | cons d m ih =>
    unfold Memory.write at h
    split at h
    · simpa using h
    · split at h
      · simp only [List.mem_cons] at h ⊢; tauto
      · simp only [List.mem_cons] at h ⊢
        rcases h with h | h
        · exact .inr (.inl h)
        · rcases ih h with h | h <;> tauto

theorem Memory.write_wf {m : Memory} (h : Memory.wf m) (a : Nat) (b : Byte) : Memory.wf (Memory.write m a b) := by
  induction m with
  | nil => simp [Memory.write, Memory.wf]
  | cons c m ih =>
    have hc := List.pairwise_cons.mp h
    unfold Memory.write
    split
    · next hlt =>
      refine List.pairwise_cons.mpr ⟨fun d hd => ?_, h⟩
      rcases List.mem_cons.mp hd with rfl | hd
      · exact hlt
      · exact lt_trans hlt (hc.1 d hd)
    · split
      · next heq => exact List.pairwise_cons.mpr ⟨fun d hd => by simpa [heq] using hc.1 d hd, hc.2⟩
      · next h1 h2 =>
        refine List.pairwise_cons.mpr ⟨fun d hd => ?_, ih hc.2⟩
        rcases Memory.mem_write hd with rfl | hd
        · show c.1 < a; omega
        · exact hc.1 d hd

theorem Memory.writeBytes_wf {m : Memory} (h : Memory.wf m) (a : Nat) (v : List Byte) :
    Memory.wf (Memory.writeBytes m a v) := by
  induction v generalizing m a with
  | nil => exact h
  | cons b v ih => exact ih (Memory.write_wf h a b) (a + 1)

/-- The offsets of a memory after a run of writes. -/
theorem Memory.mem_writeBytes {m : Memory} {a : Nat} {v : List Byte} {c : Host.Cell}
    (h : c ∈ Memory.writeBytes m a v) : (a ≤ c.1 ∧ c.1 < a + v.length) ∨ c ∈ m := by
  induction v generalizing m a with
  | nil => exact .inr h
  | cons b v ih =>
    rcases ih h with h | h
    · exact .inl ⟨by omega, by simp only [List.length_cons]; omega⟩
    · rcases Memory.mem_write h with rfl | h
      · exact .inl ⟨le_refl _, by simp⟩
      · exact .inr h

theorem Memory.read_writeBytes_outside (m : Memory) {a x : Nat} (v : List Byte) (h : ¬(a ≤ x ∧ x < a + v.length)) :
    Memory.read (Memory.writeBytes m a v) x = Memory.read m x := by
  induction v generalizing m a with
  | nil => rfl
  | cons b v ih =>
    simp only [List.length_cons] at h
    rw [Memory.writeBytes, ih _ (by omega), Memory.read_write_other _ _ (by omega)]

theorem Memory.read_writeBytes_inside (m : Memory) (a : Nat) (v : List Byte) {k : Nat} {b : Byte} (h : v[k]? = some b) :
    Memory.read (Memory.writeBytes m a v) (a + k) = some b := by
  induction v generalizing m a k with
  | nil => simp at h
  | cons d v ih =>
    cases k with
    | zero =>
      rw [Memory.writeBytes, Memory.read_writeBytes_outside _ _ (by omega)]
      simpa using h
    | succ k =>
      have := ih (Memory.write m a d) (a + 1) (k := k) (by simpa using h)
      rwa [Nat.add_assoc, Nat.add_comm 1 k] at this

/-- Stored bytes do not depend on the memory they are stored in: two memories that read alike at an offset read alike there after. -/
theorem Memory.read_writeBytes_congr {m m' : Memory} {x : Nat} (a : Nat) (v : List Byte) (h : Memory.read m x = Memory.read m' x) :
    Memory.read (Memory.writeBytes m a v) x = Memory.read (Memory.writeBytes m' a v) x := by
  by_cases hx : a ≤ x ∧ x < a + v.length
  · obtain ⟨k, rfl⟩ := Nat.exists_eq_add_of_le hx.1
    have hk := List.getElem?_eq_getElem (l := v) (i := k) (by omega)
    rw [read_writeBytes_inside m a v hk, read_writeBytes_inside m' a v hk]
  · rw [read_writeBytes_outside m v hx, read_writeBytes_outside m' v hx, h]

/-- A run of writes leaves no byte unwritten. -/
theorem Memory.isSome_read_writeBytes {m : Memory} {a x : Nat} {v : List Byte} (h : (Memory.read m x).isSome = true) :
    (Memory.read (Memory.writeBytes m a v) x).isSome = true := by
  by_cases hx : a ≤ x ∧ x < a + v.length
  · obtain ⟨k, rfl⟩ := Nat.exists_eq_add_of_le hx.1
    have hk : k < v.length := by omega
    rw [Memory.read_writeBytes_inside m a v (List.getElem?_eq_getElem hk)]; rfl
  · rwa [Memory.read_writeBytes_outside _ _ hx]

/-- What reading a run of bytes means, byte by byte. -/
theorem Memory.readBytes_eq_some {m : Memory} {a n : Nat} {v : List Byte} :
    Memory.readBytes m a n = some v ↔ v.length = n ∧ ∀ k b, v[k]? = some b → Memory.read m (a + k) = some b := by
  induction n generalizing a v with
  | zero =>
    simp only [Memory.readBytes, Option.some.injEq, List.length_eq_zero_iff]
    constructor
    · rintro rfl; simp
    · rintro ⟨rfl, -⟩; rfl
  | succ n ih =>
    constructor
    · intro h
      rw [Memory.readBytes] at h
      split at h
      · next b bs hb hbs =>
        cases h
        obtain ⟨hl, hr⟩ := ih.mp hbs
        refine ⟨by simp [hl], fun k d hd => ?_⟩
        cases k with
        | zero => simpa [← Option.some.inj hd] using hb
        | succ k =>
          have := hr k d (by simpa using hd)
          rwa [Nat.add_assoc, Nat.add_comm 1 k] at this
      · cases h
    · rintro ⟨hl, hr⟩
      cases v with
      | nil => simp at hl
      | cons b bs =>
        have h0 := hr 0 b (by simp)
        have h1 := ih (a := a + 1) (v := bs) |>.mpr ⟨by simpa using hl, fun k d hd => by
          have := hr (k + 1) d (by simpa using hd)
          rwa [Nat.add_assoc, Nat.add_comm 1 k]⟩
        rw [Memory.readBytes, show Memory.read m a = some b by simpa using h0, h1]

/-- A run of bytes can be read exactly when each of them is written. -/
theorem Memory.readBytes_isSome {m : Memory} {a n : Nat} :
    (Memory.readBytes m a n).isSome = true ↔ ∀ k, k < n → (Memory.read m (a + k)).isSome = true := by
  induction n generalizing a with
  | zero => simp [Memory.readBytes]
  | succ n ih =>
    have key : (Memory.readBytes m a (n + 1)).isSome = true ↔
        (Memory.read m a).isSome = true ∧ (Memory.readBytes m (a + 1) n).isSome = true := by
      rw [Memory.readBytes]
      cases Memory.read m a <;> cases Memory.readBytes m (a + 1) n <;> simp
    rw [key, ih]
    constructor
    · rintro ⟨h0, h1⟩ k hk
      cases k with
      | zero => exact h0
      | succ k => have := h1 k (by omega); rwa [Nat.add_assoc, Nat.add_comm 1 k] at this
    · intro h
      exact ⟨h 0 (by omega), fun k hk => by have := h (k + 1) (by omega); rwa [Nat.add_assoc, Nat.add_comm 1 k]⟩

theorem Memory.readBytes_length {m : Memory} {a n : Nat} {v : List Byte} (h : Memory.readBytes m a n = some v) :
    v.length = n := (Memory.readBytes_eq_some.mp h).1

/-- Reading depends only on the bytes read. -/
theorem Memory.readBytes_congr {m m' : Memory} {a n : Nat}
    (h : ∀ k, k < n → Memory.read m' (a + k) = Memory.read m (a + k)) : Memory.readBytes m' a n = Memory.readBytes m a n := by
  induction n generalizing a with
  | zero => rfl
  | succ n ih =>
    rw [Memory.readBytes, Memory.readBytes, show Memory.read m' a = Memory.read m a from h 0 (by omega),
      ih (a := a + 1) (fun k hk => by
        have := h (k + 1) (by omega)
        rwa [Nat.add_assoc, Nat.add_comm 1 k])]

theorem Memory.readBytes_writeBytes (m : Memory) (a : Nat) (v : List Byte) :
    Memory.readBytes (Memory.writeBytes m a v) a v.length = some v :=
  Memory.readBytes_eq_some.mpr ⟨rfl, fun _ _ h => Memory.read_writeBytes_inside m a v h⟩

/-- Appending after bytes that can be read gives all of them in order. -/
theorem Memory.readBytes_append {m : Memory} {a l : Nat} {u : List Byte} (p : List Byte) (h : Memory.readBytes m a l = some u) :
    Memory.readBytes (Memory.writeBytes m (a + l) p) a (l + p.length) = some (u ++ p) := by
  obtain ⟨hl, hu⟩ := Memory.readBytes_eq_some.mp h
  refine Memory.readBytes_eq_some.mpr ⟨by simp [hl], fun k b hk => ?_⟩
  by_cases hlt : k < l
  · rw [List.getElem?_append_left (by omega)] at hk
    rw [Memory.read_writeBytes_outside _ _ (by omega), hu k b hk]
  · rw [List.getElem?_append_right (by omega)] at hk
    have := Memory.read_writeBytes_inside m (a + l) p hk
    rwa [hl, Nat.add_assoc, Nat.add_sub_cancel' (by omega)] at this

/-- A canonical memory has nothing listed below its head. -/
theorem Memory.read_below {m : Memory} {a : Nat} (h : ∀ c ∈ m, a < c.1) : Memory.read m a = none := by
  induction m with
  | nil => rfl
  | cons c m ih =>
    have hc : a < c.1 := h c (by simp)
    rw [Memory.read_cons, if_neg (by omega), ih fun d hd => h d (by simp [hd])]

/-- Equal contents are equal data. -/
theorem Memory.ext_of_wf {m m' : Memory} (hm : Memory.wf m) (hm' : Memory.wf m')
    (h : ∀ a, Memory.read m a = Memory.read m' a) : m = m' := by
  induction m generalizing m' with
  | nil =>
    cases m' with
    | nil => rfl
    | cons c m' => have := h c.1; simp [Memory.read_cons] at this
  | cons c m ih =>
    cases m' with
    | nil => have := h c.1; simp [Memory.read_cons] at this
    | cons d m' =>
      have hc := List.pairwise_cons.mp hm
      have hd := List.pairwise_cons.mp hm'
      have hcd : c.1 = d.1 := by
        rcases lt_trichotomy c.1 d.1 with hlt | heq | hgt
        · have := h c.1
          rw [Memory.read_cons, if_pos rfl, Memory.read_cons, if_neg (by omega),
            Memory.read_below fun e he => lt_trans hlt (hd.1 e he)] at this
          cases this
        · exact heq
        · have := h d.1
          rw [Memory.read_cons, if_neg (by omega), Memory.read_cons, if_pos rfl,
            Memory.read_below fun e he => lt_trans hgt (hc.1 e he)] at this
          cases this
      have hv : c.2 = d.2 := by simpa [Memory.read_cons, hcd] using h c.1
      have htail : m = m' := ih hc.2 hd.2 fun a => by
        by_cases ha : a = c.1
        · rw [ha, Memory.read_below hc.1, hcd, Memory.read_below hd.1]
        · have := h a
          rwa [Memory.read_cons, if_neg (Ne.symm ha), Memory.read_cons, if_neg (by omega)] at this
      rw [htail, Prod.ext hcd hv]

/-- What MemRead answers. -/
theorem memRead_eq_some {buf : Buf} {off n : Nat} {m : Memory} {v : List Byte} :
    memRead buf off n m = some v ↔ off + n ≤ 896 ∧ Memory.readBytes m (buf.base + off) n = some v := by
  unfold memRead Config.msgCap
  split <;> simp_all

/-- What MemWrite answers. -/
theorem memWrite_eq_some {buf : Buf} {off : Nat} {v : List Byte} {m m' : Memory} :
    memWrite buf off v m = some m' ↔ off + v.length ≤ 896 ∧ m' = Memory.writeBytes m (buf.base + off) v := by
  unfold memWrite Config.msgCap
  split <;> simp_all [eq_comm]

end Sys2Proof.Machine
end

