-- ==== Sys2Proof/Laws/State.lean ====
section
/-! SUPPORT. One lemma for each field of each update of the state, so that no later proof unfolds an update. -/

namespace Sys2Proof.Machine

@[simp] theorem emitTrace_size (d : TraceDir) (k : TraceKind) (f : Frame) (s : State) : (emitTrace d k f s).size = s.size := rfl
@[simp] theorem emitTrace_txExt (d : TraceDir) (k : TraceKind) (f : Frame) (s : State) : (emitTrace d k f s).txExt = s.txExt := rfl
@[simp] theorem emitTrace_rxExt (d : TraceDir) (k : TraceKind) (f : Frame) (s : State) : (emitTrace d k f s).rxExt = s.rxExt := rfl
@[simp] theorem emitTrace_txId (d : TraceDir) (k : TraceKind) (f : Frame) (s : State) : (emitTrace d k f s).txId = s.txId := rfl
@[simp] theorem emitTrace_rxId (d : TraceDir) (k : TraceKind) (f : Frame) (s : State) : (emitTrace d k f s).rxId = s.rxId := rfl
@[simp] theorem emitTrace_traceEn (d : TraceDir) (k : TraceKind) (f : Frame) (s : State) : (emitTrace d k f s).traceEn = s.traceEn := rfl
@[simp] theorem emitTrace_txLen (d : TraceDir) (k : TraceKind) (f : Frame) (s : State) : (emitTrace d k f s).txLen = s.txLen := rfl
@[simp] theorem emitTrace_txCount (d : TraceDir) (k : TraceKind) (f : Frame) (s : State) : (emitTrace d k f s).txCount = s.txCount := rfl
@[simp] theorem emitTrace_rxLen (d : TraceDir) (k : TraceKind) (f : Frame) (s : State) : (emitTrace d k f s).rxLen = s.rxLen := rfl
@[simp] theorem emitTrace_errCnt (d : TraceDir) (k : TraceKind) (f : Frame) (s : State) : (emitTrace d k f s).errCnt = s.errCnt := rfl
@[simp] theorem emitTrace_rxState (d : TraceDir) (k : TraceKind) (f : Frame) (s : State) : (emitTrace d k f s).rxState = s.rxState := rfl
@[simp] theorem emitTrace_iCont (d : TraceDir) (k : TraceKind) (f : Frame) (s : State) : (emitTrace d k f s).iCont = s.iCont := rfl
@[simp] theorem emitTrace_nCont (d : TraceDir) (k : TraceKind) (f : Frame) (s : State) : (emitTrace d k f s).nCont = s.nCont := rfl
@[simp] theorem emitTrace_isOpen (d : TraceDir) (k : TraceKind) (f : Frame) (s : State) : (emitTrace d k f s).isOpen = s.isOpen := rfl
@[simp] theorem emitTrace_ctlBusy (d : TraceDir) (k : TraceKind) (f : Frame) (s : State) : (emitTrace d k f s).ctlBusy = s.ctlBusy := rfl
@[simp] theorem emitTrace_txBusy (d : TraceDir) (k : TraceKind) (f : Frame) (s : State) : (emitTrace d k f s).txBusy = s.txBusy := rfl
@[simp] theorem emitTrace_rxBusy (d : TraceDir) (k : TraceKind) (f : Frame) (s : State) : (emitTrace d k f s).rxBusy = s.rxBusy := rfl
@[simp] theorem emitTrace_cmdErr (d : TraceDir) (k : TraceKind) (f : Frame) (s : State) : (emitTrace d k f s).cmdErr = s.cmdErr := rfl
@[simp] theorem emitTrace_ctlRes (d : TraceDir) (k : TraceKind) (f : Frame) (s : State) : (emitTrace d k f s).ctlRes = s.ctlRes := rfl
@[simp] theorem emitTrace_txRes (d : TraceDir) (k : TraceKind) (f : Frame) (s : State) : (emitTrace d k f s).txRes = s.txRes := rfl
@[simp] theorem emitTrace_rxRes (d : TraceDir) (k : TraceKind) (f : Frame) (s : State) : (emitTrace d k f s).rxRes = s.rxRes := rfl
@[simp] theorem emitTrace_q (d : TraceDir) (k : TraceKind) (f : Frame) (s : State) : (emitTrace d k f s).q = s.q := rfl
@[simp] theorem emitTrace_txN (d : TraceDir) (k : TraceKind) (f : Frame) (s : State) : (emitTrace d k f s).txN = s.txN := rfl
@[simp] theorem emitTrace_txNb (d : TraceDir) (k : TraceKind) (f : Frame) (s : State) : (emitTrace d k f s).txNb = s.txNb := rfl
@[simp] theorem emitTrace_txOff (d : TraceDir) (k : TraceKind) (f : Frame) (s : State) : (emitTrace d k f s).txOff = s.txOff := rfl
@[simp] theorem emitTrace_txI (d : TraceDir) (k : TraceKind) (f : Frame) (s : State) : (emitTrace d k f s).txI = s.txI := rfl
@[simp] theorem emitTrace_mem (d : TraceDir) (k : TraceKind) (f : Frame) (s : State) : (emitTrace d k f s).mem = s.mem := rfl
@[simp] theorem emitTrace_trace (d : TraceDir) (k : TraceKind) (f : Frame) (s : State) : (emitTrace d k f s).trace = if s.traceEn then s.trace ++ [⟨d, k, f⟩] else s.trace := rfl
@[simp] theorem emitTrace_turns (d : TraceDir) (k : TraceKind) (f : Frame) (s : State) : (emitTrace d k f s).turns = s.turns := rfl
@[simp] theorem emitTrace_devLog (d : TraceDir) (k : TraceKind) (f : Frame) (s : State) : (emitTrace d k f s).devLog = s.devLog := rfl
@[simp] theorem emitTrace_busOut (d : TraceDir) (k : TraceKind) (f : Frame) (s : State) : (emitTrace d k f s).busOut = s.busOut := rfl
@[simp] theorem emitTrace_rxFrame (d : TraceDir) (k : TraceKind) (f : Frame) (s : State) : (emitTrace d k f s).rxFrame = s.rxFrame := rfl
@[simp] theorem emitTrace_txFrame (d : TraceDir) (k : TraceKind) (f : Frame) (s : State) : (emitTrace d k f s).txFrame = s.txFrame := rfl
@[simp] theorem emitTrace_txRet (d : TraceDir) (k : TraceKind) (f : Frame) (s : State) : (emitTrace d k f s).txRet = s.txRet := rfl

@[simp] theorem raiseCmdError_size (s : State) : (raiseCmdError s).size = s.size := rfl
@[simp] theorem raiseCmdError_txExt (s : State) : (raiseCmdError s).txExt = s.txExt := rfl
@[simp] theorem raiseCmdError_rxExt (s : State) : (raiseCmdError s).rxExt = s.rxExt := rfl
@[simp] theorem raiseCmdError_txId (s : State) : (raiseCmdError s).txId = s.txId := rfl
@[simp] theorem raiseCmdError_rxId (s : State) : (raiseCmdError s).rxId = s.rxId := rfl
@[simp] theorem raiseCmdError_traceEn (s : State) : (raiseCmdError s).traceEn = s.traceEn := rfl
@[simp] theorem raiseCmdError_txLen (s : State) : (raiseCmdError s).txLen = s.txLen := rfl
@[simp] theorem raiseCmdError_txCount (s : State) : (raiseCmdError s).txCount = s.txCount := rfl
@[simp] theorem raiseCmdError_rxLen (s : State) : (raiseCmdError s).rxLen = s.rxLen := rfl
@[simp] theorem raiseCmdError_errCnt (s : State) : (raiseCmdError s).errCnt = s.errCnt := rfl
@[simp] theorem raiseCmdError_rxState (s : State) : (raiseCmdError s).rxState = s.rxState := rfl
@[simp] theorem raiseCmdError_iCont (s : State) : (raiseCmdError s).iCont = s.iCont := rfl
@[simp] theorem raiseCmdError_nCont (s : State) : (raiseCmdError s).nCont = s.nCont := rfl
@[simp] theorem raiseCmdError_isOpen (s : State) : (raiseCmdError s).isOpen = s.isOpen := rfl
@[simp] theorem raiseCmdError_ctlBusy (s : State) : (raiseCmdError s).ctlBusy = s.ctlBusy := rfl
@[simp] theorem raiseCmdError_txBusy (s : State) : (raiseCmdError s).txBusy = s.txBusy := rfl
@[simp] theorem raiseCmdError_rxBusy (s : State) : (raiseCmdError s).rxBusy = s.rxBusy := rfl
@[simp] theorem raiseCmdError_cmdErr (s : State) : (raiseCmdError s).cmdErr = true := rfl
@[simp] theorem raiseCmdError_ctlRes (s : State) : (raiseCmdError s).ctlRes = s.ctlRes := rfl
@[simp] theorem raiseCmdError_txRes (s : State) : (raiseCmdError s).txRes = s.txRes := rfl
@[simp] theorem raiseCmdError_rxRes (s : State) : (raiseCmdError s).rxRes = s.rxRes := rfl
@[simp] theorem raiseCmdError_q (s : State) : (raiseCmdError s).q = s.q := rfl
@[simp] theorem raiseCmdError_txN (s : State) : (raiseCmdError s).txN = s.txN := rfl
@[simp] theorem raiseCmdError_txNb (s : State) : (raiseCmdError s).txNb = s.txNb := rfl
@[simp] theorem raiseCmdError_txOff (s : State) : (raiseCmdError s).txOff = s.txOff := rfl
@[simp] theorem raiseCmdError_txI (s : State) : (raiseCmdError s).txI = s.txI := rfl
@[simp] theorem raiseCmdError_mem (s : State) : (raiseCmdError s).mem = s.mem := rfl
@[simp] theorem raiseCmdError_trace (s : State) : (raiseCmdError s).trace = s.trace := rfl
@[simp] theorem raiseCmdError_turns (s : State) : (raiseCmdError s).turns = s.turns := rfl
@[simp] theorem raiseCmdError_devLog (s : State) : (raiseCmdError s).devLog = s.devLog := rfl
@[simp] theorem raiseCmdError_busOut (s : State) : (raiseCmdError s).busOut = s.busOut := rfl
@[simp] theorem raiseCmdError_rxFrame (s : State) : (raiseCmdError s).rxFrame = s.rxFrame := rfl
@[simp] theorem raiseCmdError_txFrame (s : State) : (raiseCmdError s).txFrame = s.txFrame := rfl
@[simp] theorem raiseCmdError_txRet (s : State) : (raiseCmdError s).txRet = s.txRet := rfl

@[simp] theorem countError_size (s : State) : (countError s).size = s.size := rfl
@[simp] theorem countError_txExt (s : State) : (countError s).txExt = s.txExt := rfl
@[simp] theorem countError_rxExt (s : State) : (countError s).rxExt = s.rxExt := rfl
@[simp] theorem countError_txId (s : State) : (countError s).txId = s.txId := rfl
@[simp] theorem countError_rxId (s : State) : (countError s).rxId = s.rxId := rfl
@[simp] theorem countError_traceEn (s : State) : (countError s).traceEn = s.traceEn := rfl
@[simp] theorem countError_txLen (s : State) : (countError s).txLen = s.txLen := rfl
@[simp] theorem countError_txCount (s : State) : (countError s).txCount = s.txCount := rfl
@[simp] theorem countError_rxLen (s : State) : (countError s).rxLen = s.rxLen := rfl
@[simp] theorem countError_errCnt (s : State) : (countError s).errCnt = s.errCnt + 1#32 := rfl
@[simp] theorem countError_rxState (s : State) : (countError s).rxState = s.rxState := rfl
@[simp] theorem countError_iCont (s : State) : (countError s).iCont = s.iCont := rfl
@[simp] theorem countError_nCont (s : State) : (countError s).nCont = s.nCont := rfl
@[simp] theorem countError_isOpen (s : State) : (countError s).isOpen = s.isOpen := rfl
@[simp] theorem countError_ctlBusy (s : State) : (countError s).ctlBusy = s.ctlBusy := rfl
@[simp] theorem countError_txBusy (s : State) : (countError s).txBusy = s.txBusy := rfl
@[simp] theorem countError_rxBusy (s : State) : (countError s).rxBusy = s.rxBusy := rfl
@[simp] theorem countError_cmdErr (s : State) : (countError s).cmdErr = s.cmdErr := rfl
@[simp] theorem countError_ctlRes (s : State) : (countError s).ctlRes = s.ctlRes := rfl
@[simp] theorem countError_txRes (s : State) : (countError s).txRes = s.txRes := rfl
@[simp] theorem countError_rxRes (s : State) : (countError s).rxRes = s.rxRes := rfl
@[simp] theorem countError_q (s : State) : (countError s).q = s.q := rfl
@[simp] theorem countError_txN (s : State) : (countError s).txN = s.txN := rfl
@[simp] theorem countError_txNb (s : State) : (countError s).txNb = s.txNb := rfl
@[simp] theorem countError_txOff (s : State) : (countError s).txOff = s.txOff := rfl
@[simp] theorem countError_txI (s : State) : (countError s).txI = s.txI := rfl
@[simp] theorem countError_mem (s : State) : (countError s).mem = s.mem := rfl
@[simp] theorem countError_trace (s : State) : (countError s).trace = s.trace := rfl
@[simp] theorem countError_turns (s : State) : (countError s).turns = s.turns := rfl
@[simp] theorem countError_devLog (s : State) : (countError s).devLog = s.devLog := rfl
@[simp] theorem countError_busOut (s : State) : (countError s).busOut = s.busOut := rfl
@[simp] theorem countError_rxFrame (s : State) : (countError s).rxFrame = s.rxFrame := rfl
@[simp] theorem countError_txFrame (s : State) : (countError s).txFrame = s.txFrame := rfl
@[simp] theorem countError_txRet (s : State) : (countError s).txRet = s.txRet := rfl

@[simp] theorem resync_size (s : State) : (resync s).size = s.size := rfl
@[simp] theorem resync_txExt (s : State) : (resync s).txExt = s.txExt := rfl
@[simp] theorem resync_rxExt (s : State) : (resync s).rxExt = s.rxExt := rfl
@[simp] theorem resync_txId (s : State) : (resync s).txId = s.txId := rfl
@[simp] theorem resync_rxId (s : State) : (resync s).rxId = s.rxId := rfl
@[simp] theorem resync_traceEn (s : State) : (resync s).traceEn = s.traceEn := rfl
@[simp] theorem resync_txLen (s : State) : (resync s).txLen = s.txLen := rfl
@[simp] theorem resync_txCount (s : State) : (resync s).txCount = s.txCount := rfl
@[simp] theorem resync_rxLen (s : State) : (resync s).rxLen = 0#16 := rfl
@[simp] theorem resync_errCnt (s : State) : (resync s).errCnt = s.errCnt := rfl
@[simp] theorem resync_rxState (s : State) : (resync s).rxState = .s0 := rfl
@[simp] theorem resync_iCont (s : State) : (resync s).iCont = s.iCont := rfl
@[simp] theorem resync_nCont (s : State) : (resync s).nCont = s.nCont := rfl
@[simp] theorem resync_isOpen (s : State) : (resync s).isOpen = s.isOpen := rfl
@[simp] theorem resync_ctlBusy (s : State) : (resync s).ctlBusy = s.ctlBusy := rfl
@[simp] theorem resync_txBusy (s : State) : (resync s).txBusy = s.txBusy := rfl
@[simp] theorem resync_rxBusy (s : State) : (resync s).rxBusy = s.rxBusy := rfl
@[simp] theorem resync_cmdErr (s : State) : (resync s).cmdErr = s.cmdErr := rfl
@[simp] theorem resync_ctlRes (s : State) : (resync s).ctlRes = s.ctlRes := rfl
@[simp] theorem resync_txRes (s : State) : (resync s).txRes = s.txRes := rfl
@[simp] theorem resync_rxRes (s : State) : (resync s).rxRes = s.rxRes := rfl
@[simp] theorem resync_q (s : State) : (resync s).q = s.q := rfl
@[simp] theorem resync_txN (s : State) : (resync s).txN = s.txN := rfl
@[simp] theorem resync_txNb (s : State) : (resync s).txNb = s.txNb := rfl
@[simp] theorem resync_txOff (s : State) : (resync s).txOff = s.txOff := rfl
@[simp] theorem resync_txI (s : State) : (resync s).txI = s.txI := rfl
@[simp] theorem resync_mem (s : State) : (resync s).mem = s.mem := rfl
@[simp] theorem resync_trace (s : State) : (resync s).trace = s.trace := rfl
@[simp] theorem resync_turns (s : State) : (resync s).turns = s.turns := rfl
@[simp] theorem resync_devLog (s : State) : (resync s).devLog = s.devLog := rfl
@[simp] theorem resync_busOut (s : State) : (resync s).busOut = s.busOut := rfl
@[simp] theorem resync_rxFrame (s : State) : (resync s).rxFrame = s.rxFrame := rfl
@[simp] theorem resync_txFrame (s : State) : (resync s).txFrame = s.txFrame := rfl
@[simp] theorem resync_txRet (s : State) : (resync s).txRet = s.txRet := rfl

@[simp] theorem popQueue_size (s : State) : (popQueue s).size = s.size := rfl
@[simp] theorem popQueue_txExt (s : State) : (popQueue s).txExt = s.txExt := rfl
@[simp] theorem popQueue_rxExt (s : State) : (popQueue s).rxExt = s.rxExt := rfl
@[simp] theorem popQueue_txId (s : State) : (popQueue s).txId = s.txId := rfl
@[simp] theorem popQueue_rxId (s : State) : (popQueue s).rxId = s.rxId := rfl
@[simp] theorem popQueue_traceEn (s : State) : (popQueue s).traceEn = s.traceEn := rfl
@[simp] theorem popQueue_txLen (s : State) : (popQueue s).txLen = s.txLen := rfl
@[simp] theorem popQueue_txCount (s : State) : (popQueue s).txCount = s.txCount := rfl
@[simp] theorem popQueue_rxLen (s : State) : (popQueue s).rxLen = s.rxLen := rfl
@[simp] theorem popQueue_errCnt (s : State) : (popQueue s).errCnt = s.errCnt := rfl
@[simp] theorem popQueue_rxState (s : State) : (popQueue s).rxState = s.rxState := rfl
@[simp] theorem popQueue_iCont (s : State) : (popQueue s).iCont = s.iCont := rfl
@[simp] theorem popQueue_nCont (s : State) : (popQueue s).nCont = s.nCont := rfl
@[simp] theorem popQueue_isOpen (s : State) : (popQueue s).isOpen = s.isOpen := rfl
@[simp] theorem popQueue_ctlBusy (s : State) : (popQueue s).ctlBusy = s.ctlBusy := rfl
@[simp] theorem popQueue_txBusy (s : State) : (popQueue s).txBusy = s.txBusy := rfl
@[simp] theorem popQueue_rxBusy (s : State) : (popQueue s).rxBusy = s.rxBusy := rfl
@[simp] theorem popQueue_cmdErr (s : State) : (popQueue s).cmdErr = s.cmdErr := rfl
@[simp] theorem popQueue_ctlRes (s : State) : (popQueue s).ctlRes = s.ctlRes := rfl
@[simp] theorem popQueue_txRes (s : State) : (popQueue s).txRes = s.txRes := rfl
@[simp] theorem popQueue_rxRes (s : State) : (popQueue s).rxRes = s.rxRes := rfl
@[simp] theorem popQueue_q (s : State) : (popQueue s).q = s.q.tail := rfl
@[simp] theorem popQueue_txN (s : State) : (popQueue s).txN = s.txN := rfl
@[simp] theorem popQueue_txNb (s : State) : (popQueue s).txNb = s.txNb := rfl
@[simp] theorem popQueue_txOff (s : State) : (popQueue s).txOff = s.txOff := rfl
@[simp] theorem popQueue_txI (s : State) : (popQueue s).txI = s.txI := rfl
@[simp] theorem popQueue_mem (s : State) : (popQueue s).mem = s.mem := rfl
@[simp] theorem popQueue_trace (s : State) : (popQueue s).trace = s.trace := rfl
@[simp] theorem popQueue_turns (s : State) : (popQueue s).turns = s.turns := rfl
@[simp] theorem popQueue_devLog (s : State) : (popQueue s).devLog = s.devLog := rfl
@[simp] theorem popQueue_busOut (s : State) : (popQueue s).busOut = s.busOut := rfl
@[simp] theorem popQueue_rxFrame (s : State) : (popQueue s).rxFrame = s.rxFrame := rfl
@[simp] theorem popQueue_txFrame (s : State) : (popQueue s).txFrame = s.txFrame := rfl
@[simp] theorem popQueue_txRet (s : State) : (popQueue s).txRet = s.txRet := rfl

@[simp] theorem busReturn_size (d : BusData) (s : State) : (busReturn d s).size = s.size := rfl
@[simp] theorem busReturn_txExt (d : BusData) (s : State) : (busReturn d s).txExt = s.txExt := rfl
@[simp] theorem busReturn_rxExt (d : BusData) (s : State) : (busReturn d s).rxExt = s.rxExt := rfl
@[simp] theorem busReturn_txId (d : BusData) (s : State) : (busReturn d s).txId = s.txId := rfl
@[simp] theorem busReturn_rxId (d : BusData) (s : State) : (busReturn d s).rxId = s.rxId := rfl
@[simp] theorem busReturn_traceEn (d : BusData) (s : State) : (busReturn d s).traceEn = s.traceEn := rfl
@[simp] theorem busReturn_txLen (d : BusData) (s : State) : (busReturn d s).txLen = s.txLen := rfl
@[simp] theorem busReturn_txCount (d : BusData) (s : State) : (busReturn d s).txCount = s.txCount := rfl
@[simp] theorem busReturn_rxLen (d : BusData) (s : State) : (busReturn d s).rxLen = s.rxLen := rfl
@[simp] theorem busReturn_errCnt (d : BusData) (s : State) : (busReturn d s).errCnt = s.errCnt := rfl
@[simp] theorem busReturn_rxState (d : BusData) (s : State) : (busReturn d s).rxState = s.rxState := rfl
@[simp] theorem busReturn_iCont (d : BusData) (s : State) : (busReturn d s).iCont = s.iCont := rfl
@[simp] theorem busReturn_nCont (d : BusData) (s : State) : (busReturn d s).nCont = s.nCont := rfl
@[simp] theorem busReturn_isOpen (d : BusData) (s : State) : (busReturn d s).isOpen = s.isOpen := rfl
@[simp] theorem busReturn_ctlBusy (d : BusData) (s : State) : (busReturn d s).ctlBusy = s.ctlBusy := rfl
@[simp] theorem busReturn_txBusy (d : BusData) (s : State) : (busReturn d s).txBusy = s.txBusy := rfl
@[simp] theorem busReturn_rxBusy (d : BusData) (s : State) : (busReturn d s).rxBusy = s.rxBusy := rfl
@[simp] theorem busReturn_cmdErr (d : BusData) (s : State) : (busReturn d s).cmdErr = s.cmdErr := rfl
@[simp] theorem busReturn_ctlRes (d : BusData) (s : State) : (busReturn d s).ctlRes = s.ctlRes := rfl
@[simp] theorem busReturn_txRes (d : BusData) (s : State) : (busReturn d s).txRes = s.txRes := rfl
@[simp] theorem busReturn_rxRes (d : BusData) (s : State) : (busReturn d s).rxRes = s.rxRes := rfl
@[simp] theorem busReturn_q (d : BusData) (s : State) : (busReturn d s).q = s.q := rfl
@[simp] theorem busReturn_txN (d : BusData) (s : State) : (busReturn d s).txN = s.txN := rfl
@[simp] theorem busReturn_txNb (d : BusData) (s : State) : (busReturn d s).txNb = s.txNb := rfl
@[simp] theorem busReturn_txOff (d : BusData) (s : State) : (busReturn d s).txOff = s.txOff := rfl
@[simp] theorem busReturn_txI (d : BusData) (s : State) : (busReturn d s).txI = s.txI := rfl
@[simp] theorem busReturn_mem (d : BusData) (s : State) : (busReturn d s).mem = s.mem := rfl
@[simp] theorem busReturn_trace (d : BusData) (s : State) : (busReturn d s).trace = s.trace := rfl
@[simp] theorem busReturn_turns (d : BusData) (s : State) : (busReturn d s).turns = s.turns := rfl
@[simp] theorem busReturn_devLog (d : BusData) (s : State) : (busReturn d s).devLog = s.devLog := rfl
@[simp] theorem busReturn_busOut (d : BusData) (s : State) : (busReturn d s).busOut = s.busOut ++ [d] := rfl
@[simp] theorem busReturn_rxFrame (d : BusData) (s : State) : (busReturn d s).rxFrame = s.rxFrame := rfl
@[simp] theorem busReturn_txFrame (d : BusData) (s : State) : (busReturn d s).txFrame = s.txFrame := rfl
@[simp] theorem busReturn_txRet (d : BusData) (s : State) : (busReturn d s).txRet = s.txRet := rfl

@[simp] theorem logDevice_size (e : DevEvent) (s : State) : (logDevice e s).size = s.size := rfl
@[simp] theorem logDevice_txExt (e : DevEvent) (s : State) : (logDevice e s).txExt = s.txExt := rfl
@[simp] theorem logDevice_rxExt (e : DevEvent) (s : State) : (logDevice e s).rxExt = s.rxExt := rfl
@[simp] theorem logDevice_txId (e : DevEvent) (s : State) : (logDevice e s).txId = s.txId := rfl
@[simp] theorem logDevice_rxId (e : DevEvent) (s : State) : (logDevice e s).rxId = s.rxId := rfl
@[simp] theorem logDevice_traceEn (e : DevEvent) (s : State) : (logDevice e s).traceEn = s.traceEn := rfl
@[simp] theorem logDevice_txLen (e : DevEvent) (s : State) : (logDevice e s).txLen = s.txLen := rfl
@[simp] theorem logDevice_txCount (e : DevEvent) (s : State) : (logDevice e s).txCount = s.txCount := rfl
@[simp] theorem logDevice_rxLen (e : DevEvent) (s : State) : (logDevice e s).rxLen = s.rxLen := rfl
@[simp] theorem logDevice_errCnt (e : DevEvent) (s : State) : (logDevice e s).errCnt = s.errCnt := rfl
@[simp] theorem logDevice_rxState (e : DevEvent) (s : State) : (logDevice e s).rxState = s.rxState := rfl
@[simp] theorem logDevice_iCont (e : DevEvent) (s : State) : (logDevice e s).iCont = s.iCont := rfl
@[simp] theorem logDevice_nCont (e : DevEvent) (s : State) : (logDevice e s).nCont = s.nCont := rfl
@[simp] theorem logDevice_isOpen (e : DevEvent) (s : State) : (logDevice e s).isOpen = s.isOpen := rfl
@[simp] theorem logDevice_ctlBusy (e : DevEvent) (s : State) : (logDevice e s).ctlBusy = s.ctlBusy := rfl
@[simp] theorem logDevice_txBusy (e : DevEvent) (s : State) : (logDevice e s).txBusy = s.txBusy := rfl
@[simp] theorem logDevice_rxBusy (e : DevEvent) (s : State) : (logDevice e s).rxBusy = s.rxBusy := rfl
@[simp] theorem logDevice_cmdErr (e : DevEvent) (s : State) : (logDevice e s).cmdErr = s.cmdErr := rfl
@[simp] theorem logDevice_ctlRes (e : DevEvent) (s : State) : (logDevice e s).ctlRes = s.ctlRes := rfl
@[simp] theorem logDevice_txRes (e : DevEvent) (s : State) : (logDevice e s).txRes = s.txRes := rfl
@[simp] theorem logDevice_rxRes (e : DevEvent) (s : State) : (logDevice e s).rxRes = s.rxRes := rfl
@[simp] theorem logDevice_q (e : DevEvent) (s : State) : (logDevice e s).q = s.q := rfl
@[simp] theorem logDevice_txN (e : DevEvent) (s : State) : (logDevice e s).txN = s.txN := rfl
@[simp] theorem logDevice_txNb (e : DevEvent) (s : State) : (logDevice e s).txNb = s.txNb := rfl
@[simp] theorem logDevice_txOff (e : DevEvent) (s : State) : (logDevice e s).txOff = s.txOff := rfl
@[simp] theorem logDevice_txI (e : DevEvent) (s : State) : (logDevice e s).txI = s.txI := rfl
@[simp] theorem logDevice_mem (e : DevEvent) (s : State) : (logDevice e s).mem = s.mem := rfl
@[simp] theorem logDevice_trace (e : DevEvent) (s : State) : (logDevice e s).trace = s.trace := rfl
@[simp] theorem logDevice_turns (e : DevEvent) (s : State) : (logDevice e s).turns = s.turns := rfl
@[simp] theorem logDevice_devLog (e : DevEvent) (s : State) : (logDevice e s).devLog = s.devLog ++ [e] := rfl
@[simp] theorem logDevice_busOut (e : DevEvent) (s : State) : (logDevice e s).busOut = s.busOut := rfl
@[simp] theorem logDevice_rxFrame (e : DevEvent) (s : State) : (logDevice e s).rxFrame = s.rxFrame := rfl
@[simp] theorem logDevice_txFrame (e : DevEvent) (s : State) : (logDevice e s).txFrame = s.txFrame := rfl
@[simp] theorem logDevice_txRet (e : DevEvent) (s : State) : (logDevice e s).txRet = s.txRet := rfl

@[simp] theorem complete_ctl_size (r : Res) (s : State) : (complete .ctl r s).size = s.size := rfl
@[simp] theorem complete_ctl_txExt (r : Res) (s : State) : (complete .ctl r s).txExt = s.txExt := rfl
@[simp] theorem complete_ctl_rxExt (r : Res) (s : State) : (complete .ctl r s).rxExt = s.rxExt := rfl
@[simp] theorem complete_ctl_txId (r : Res) (s : State) : (complete .ctl r s).txId = s.txId := rfl
@[simp] theorem complete_ctl_rxId (r : Res) (s : State) : (complete .ctl r s).rxId = s.rxId := rfl
@[simp] theorem complete_ctl_traceEn (r : Res) (s : State) : (complete .ctl r s).traceEn = s.traceEn := rfl
@[simp] theorem complete_ctl_txLen (r : Res) (s : State) : (complete .ctl r s).txLen = s.txLen := rfl
@[simp] theorem complete_ctl_txCount (r : Res) (s : State) : (complete .ctl r s).txCount = s.txCount := rfl
@[simp] theorem complete_ctl_rxLen (r : Res) (s : State) : (complete .ctl r s).rxLen = s.rxLen := rfl
@[simp] theorem complete_ctl_errCnt (r : Res) (s : State) : (complete .ctl r s).errCnt = s.errCnt := rfl
@[simp] theorem complete_ctl_rxState (r : Res) (s : State) : (complete .ctl r s).rxState = s.rxState := rfl
@[simp] theorem complete_ctl_iCont (r : Res) (s : State) : (complete .ctl r s).iCont = s.iCont := rfl
@[simp] theorem complete_ctl_nCont (r : Res) (s : State) : (complete .ctl r s).nCont = s.nCont := rfl
@[simp] theorem complete_ctl_isOpen (r : Res) (s : State) : (complete .ctl r s).isOpen = s.isOpen := rfl
@[simp] theorem complete_ctl_ctlBusy (r : Res) (s : State) : (complete .ctl r s).ctlBusy = false := rfl
@[simp] theorem complete_ctl_txBusy (r : Res) (s : State) : (complete .ctl r s).txBusy = s.txBusy := rfl
@[simp] theorem complete_ctl_rxBusy (r : Res) (s : State) : (complete .ctl r s).rxBusy = s.rxBusy := rfl
@[simp] theorem complete_ctl_cmdErr (r : Res) (s : State) : (complete .ctl r s).cmdErr = s.cmdErr := rfl
@[simp] theorem complete_ctl_ctlRes (r : Res) (s : State) : (complete .ctl r s).ctlRes = r := rfl
@[simp] theorem complete_ctl_txRes (r : Res) (s : State) : (complete .ctl r s).txRes = s.txRes := rfl
@[simp] theorem complete_ctl_rxRes (r : Res) (s : State) : (complete .ctl r s).rxRes = s.rxRes := rfl
@[simp] theorem complete_ctl_q (r : Res) (s : State) : (complete .ctl r s).q = s.q := rfl
@[simp] theorem complete_ctl_txN (r : Res) (s : State) : (complete .ctl r s).txN = s.txN := rfl
@[simp] theorem complete_ctl_txNb (r : Res) (s : State) : (complete .ctl r s).txNb = s.txNb := rfl
@[simp] theorem complete_ctl_txOff (r : Res) (s : State) : (complete .ctl r s).txOff = s.txOff := rfl
@[simp] theorem complete_ctl_txI (r : Res) (s : State) : (complete .ctl r s).txI = s.txI := rfl
@[simp] theorem complete_ctl_mem (r : Res) (s : State) : (complete .ctl r s).mem = s.mem := rfl
@[simp] theorem complete_ctl_trace (r : Res) (s : State) : (complete .ctl r s).trace = s.trace := rfl
@[simp] theorem complete_ctl_turns (r : Res) (s : State) : (complete .ctl r s).turns = s.turns := rfl
@[simp] theorem complete_ctl_devLog (r : Res) (s : State) : (complete .ctl r s).devLog = s.devLog := rfl
@[simp] theorem complete_ctl_busOut (r : Res) (s : State) : (complete .ctl r s).busOut = s.busOut := rfl
@[simp] theorem complete_ctl_rxFrame (r : Res) (s : State) : (complete .ctl r s).rxFrame = s.rxFrame := rfl
@[simp] theorem complete_ctl_txFrame (r : Res) (s : State) : (complete .ctl r s).txFrame = s.txFrame := rfl
@[simp] theorem complete_ctl_txRet (r : Res) (s : State) : (complete .ctl r s).txRet = s.txRet := rfl

@[simp] theorem complete_tx_size (r : Res) (s : State) : (complete .tx r s).size = s.size := rfl
@[simp] theorem complete_tx_txExt (r : Res) (s : State) : (complete .tx r s).txExt = s.txExt := rfl
@[simp] theorem complete_tx_rxExt (r : Res) (s : State) : (complete .tx r s).rxExt = s.rxExt := rfl
@[simp] theorem complete_tx_txId (r : Res) (s : State) : (complete .tx r s).txId = s.txId := rfl
@[simp] theorem complete_tx_rxId (r : Res) (s : State) : (complete .tx r s).rxId = s.rxId := rfl
@[simp] theorem complete_tx_traceEn (r : Res) (s : State) : (complete .tx r s).traceEn = s.traceEn := rfl
@[simp] theorem complete_tx_txLen (r : Res) (s : State) : (complete .tx r s).txLen = s.txLen := rfl
@[simp] theorem complete_tx_txCount (r : Res) (s : State) : (complete .tx r s).txCount = s.txCount := rfl
@[simp] theorem complete_tx_rxLen (r : Res) (s : State) : (complete .tx r s).rxLen = s.rxLen := rfl
@[simp] theorem complete_tx_errCnt (r : Res) (s : State) : (complete .tx r s).errCnt = s.errCnt := rfl
@[simp] theorem complete_tx_rxState (r : Res) (s : State) : (complete .tx r s).rxState = s.rxState := rfl
@[simp] theorem complete_tx_iCont (r : Res) (s : State) : (complete .tx r s).iCont = s.iCont := rfl
@[simp] theorem complete_tx_nCont (r : Res) (s : State) : (complete .tx r s).nCont = s.nCont := rfl
@[simp] theorem complete_tx_isOpen (r : Res) (s : State) : (complete .tx r s).isOpen = s.isOpen := rfl
@[simp] theorem complete_tx_ctlBusy (r : Res) (s : State) : (complete .tx r s).ctlBusy = s.ctlBusy := rfl
@[simp] theorem complete_tx_txBusy (r : Res) (s : State) : (complete .tx r s).txBusy = false := rfl
@[simp] theorem complete_tx_rxBusy (r : Res) (s : State) : (complete .tx r s).rxBusy = s.rxBusy := rfl
@[simp] theorem complete_tx_cmdErr (r : Res) (s : State) : (complete .tx r s).cmdErr = s.cmdErr := rfl
@[simp] theorem complete_tx_ctlRes (r : Res) (s : State) : (complete .tx r s).ctlRes = s.ctlRes := rfl
@[simp] theorem complete_tx_txRes (r : Res) (s : State) : (complete .tx r s).txRes = r := rfl
@[simp] theorem complete_tx_rxRes (r : Res) (s : State) : (complete .tx r s).rxRes = s.rxRes := rfl
@[simp] theorem complete_tx_q (r : Res) (s : State) : (complete .tx r s).q = s.q := rfl
@[simp] theorem complete_tx_txN (r : Res) (s : State) : (complete .tx r s).txN = s.txN := rfl
@[simp] theorem complete_tx_txNb (r : Res) (s : State) : (complete .tx r s).txNb = s.txNb := rfl
@[simp] theorem complete_tx_txOff (r : Res) (s : State) : (complete .tx r s).txOff = s.txOff := rfl
@[simp] theorem complete_tx_txI (r : Res) (s : State) : (complete .tx r s).txI = s.txI := rfl
@[simp] theorem complete_tx_mem (r : Res) (s : State) : (complete .tx r s).mem = s.mem := rfl
@[simp] theorem complete_tx_trace (r : Res) (s : State) : (complete .tx r s).trace = s.trace := rfl
@[simp] theorem complete_tx_turns (r : Res) (s : State) : (complete .tx r s).turns = s.turns := rfl
@[simp] theorem complete_tx_devLog (r : Res) (s : State) : (complete .tx r s).devLog = s.devLog := rfl
@[simp] theorem complete_tx_busOut (r : Res) (s : State) : (complete .tx r s).busOut = s.busOut := rfl
@[simp] theorem complete_tx_rxFrame (r : Res) (s : State) : (complete .tx r s).rxFrame = s.rxFrame := rfl
@[simp] theorem complete_tx_txFrame (r : Res) (s : State) : (complete .tx r s).txFrame = s.txFrame := rfl
@[simp] theorem complete_tx_txRet (r : Res) (s : State) : (complete .tx r s).txRet = s.txRet := rfl

@[simp] theorem complete_rx_size (r : Res) (s : State) : (complete .rx r s).size = s.size := rfl
@[simp] theorem complete_rx_txExt (r : Res) (s : State) : (complete .rx r s).txExt = s.txExt := rfl
@[simp] theorem complete_rx_rxExt (r : Res) (s : State) : (complete .rx r s).rxExt = s.rxExt := rfl
@[simp] theorem complete_rx_txId (r : Res) (s : State) : (complete .rx r s).txId = s.txId := rfl
@[simp] theorem complete_rx_rxId (r : Res) (s : State) : (complete .rx r s).rxId = s.rxId := rfl
@[simp] theorem complete_rx_traceEn (r : Res) (s : State) : (complete .rx r s).traceEn = s.traceEn := rfl
@[simp] theorem complete_rx_txLen (r : Res) (s : State) : (complete .rx r s).txLen = s.txLen := rfl
@[simp] theorem complete_rx_txCount (r : Res) (s : State) : (complete .rx r s).txCount = s.txCount := rfl
@[simp] theorem complete_rx_rxLen (r : Res) (s : State) : (complete .rx r s).rxLen = s.rxLen := rfl
@[simp] theorem complete_rx_errCnt (r : Res) (s : State) : (complete .rx r s).errCnt = s.errCnt := rfl
@[simp] theorem complete_rx_rxState (r : Res) (s : State) : (complete .rx r s).rxState = s.rxState := rfl
@[simp] theorem complete_rx_iCont (r : Res) (s : State) : (complete .rx r s).iCont = s.iCont := rfl
@[simp] theorem complete_rx_nCont (r : Res) (s : State) : (complete .rx r s).nCont = s.nCont := rfl
@[simp] theorem complete_rx_isOpen (r : Res) (s : State) : (complete .rx r s).isOpen = s.isOpen := rfl
@[simp] theorem complete_rx_ctlBusy (r : Res) (s : State) : (complete .rx r s).ctlBusy = s.ctlBusy := rfl
@[simp] theorem complete_rx_txBusy (r : Res) (s : State) : (complete .rx r s).txBusy = s.txBusy := rfl
@[simp] theorem complete_rx_rxBusy (r : Res) (s : State) : (complete .rx r s).rxBusy = false := rfl
@[simp] theorem complete_rx_cmdErr (r : Res) (s : State) : (complete .rx r s).cmdErr = s.cmdErr := rfl
@[simp] theorem complete_rx_ctlRes (r : Res) (s : State) : (complete .rx r s).ctlRes = s.ctlRes := rfl
@[simp] theorem complete_rx_txRes (r : Res) (s : State) : (complete .rx r s).txRes = s.txRes := rfl
@[simp] theorem complete_rx_rxRes (r : Res) (s : State) : (complete .rx r s).rxRes = r := rfl
@[simp] theorem complete_rx_q (r : Res) (s : State) : (complete .rx r s).q = s.q := rfl
@[simp] theorem complete_rx_txN (r : Res) (s : State) : (complete .rx r s).txN = s.txN := rfl
@[simp] theorem complete_rx_txNb (r : Res) (s : State) : (complete .rx r s).txNb = s.txNb := rfl
@[simp] theorem complete_rx_txOff (r : Res) (s : State) : (complete .rx r s).txOff = s.txOff := rfl
@[simp] theorem complete_rx_txI (r : Res) (s : State) : (complete .rx r s).txI = s.txI := rfl
@[simp] theorem complete_rx_mem (r : Res) (s : State) : (complete .rx r s).mem = s.mem := rfl
@[simp] theorem complete_rx_trace (r : Res) (s : State) : (complete .rx r s).trace = s.trace := rfl
@[simp] theorem complete_rx_turns (r : Res) (s : State) : (complete .rx r s).turns = s.turns := rfl
@[simp] theorem complete_rx_devLog (r : Res) (s : State) : (complete .rx r s).devLog = s.devLog := rfl
@[simp] theorem complete_rx_busOut (r : Res) (s : State) : (complete .rx r s).busOut = s.busOut := rfl
@[simp] theorem complete_rx_rxFrame (r : Res) (s : State) : (complete .rx r s).rxFrame = s.rxFrame := rfl
@[simp] theorem complete_rx_txFrame (r : Res) (s : State) : (complete .rx r s).txFrame = s.txFrame := rfl
@[simp] theorem complete_rx_txRet (r : Res) (s : State) : (complete .rx r s).txRet = s.txRet := rfl

@[simp] theorem endTurn_size (s : State) : (endTurn s).size = s.size := rfl
@[simp] theorem endTurn_txExt (s : State) : (endTurn s).txExt = s.txExt := rfl
@[simp] theorem endTurn_rxExt (s : State) : (endTurn s).rxExt = s.rxExt := rfl
@[simp] theorem endTurn_txId (s : State) : (endTurn s).txId = s.txId := rfl
@[simp] theorem endTurn_rxId (s : State) : (endTurn s).rxId = s.rxId := rfl
@[simp] theorem endTurn_traceEn (s : State) : (endTurn s).traceEn = s.traceEn := rfl
@[simp] theorem endTurn_txLen (s : State) : (endTurn s).txLen = s.txLen := rfl
@[simp] theorem endTurn_txCount (s : State) : (endTurn s).txCount = s.txCount := rfl
@[simp] theorem endTurn_rxLen (s : State) : (endTurn s).rxLen = s.rxLen := rfl
@[simp] theorem endTurn_errCnt (s : State) : (endTurn s).errCnt = s.errCnt := rfl
@[simp] theorem endTurn_rxState (s : State) : (endTurn s).rxState = s.rxState := rfl
@[simp] theorem endTurn_iCont (s : State) : (endTurn s).iCont = s.iCont := rfl
@[simp] theorem endTurn_nCont (s : State) : (endTurn s).nCont = s.nCont := rfl
@[simp] theorem endTurn_isOpen (s : State) : (endTurn s).isOpen = s.isOpen := rfl
@[simp] theorem endTurn_ctlBusy (s : State) : (endTurn s).ctlBusy = s.ctlBusy := rfl
@[simp] theorem endTurn_txBusy (s : State) : (endTurn s).txBusy = s.txBusy := rfl
@[simp] theorem endTurn_rxBusy (s : State) : (endTurn s).rxBusy = s.rxBusy := rfl
@[simp] theorem endTurn_cmdErr (s : State) : (endTurn s).cmdErr = s.cmdErr := rfl
@[simp] theorem endTurn_ctlRes (s : State) : (endTurn s).ctlRes = s.ctlRes := rfl
@[simp] theorem endTurn_txRes (s : State) : (endTurn s).txRes = s.txRes := rfl
@[simp] theorem endTurn_rxRes (s : State) : (endTurn s).rxRes = s.rxRes := rfl
@[simp] theorem endTurn_q (s : State) : (endTurn s).q = s.q := rfl
@[simp] theorem endTurn_txN (s : State) : (endTurn s).txN = s.txN := rfl
@[simp] theorem endTurn_txNb (s : State) : (endTurn s).txNb = s.txNb := rfl
@[simp] theorem endTurn_txOff (s : State) : (endTurn s).txOff = s.txOff := rfl
@[simp] theorem endTurn_txI (s : State) : (endTurn s).txI = s.txI := rfl
@[simp] theorem endTurn_mem (s : State) : (endTurn s).mem = s.mem := rfl
@[simp] theorem endTurn_trace (s : State) : (endTurn s).trace = s.trace := rfl
@[simp] theorem endTurn_turns (s : State) : (endTurn s).turns = s.turns.tail := rfl
@[simp] theorem endTurn_devLog (s : State) : (endTurn s).devLog = s.devLog := rfl
@[simp] theorem endTurn_busOut (s : State) : (endTurn s).busOut = s.busOut := rfl
@[simp] theorem endTurn_rxFrame (s : State) : (endTurn s).rxFrame = none := rfl
@[simp] theorem endTurn_txFrame (s : State) : (endTurn s).txFrame = none := rfl
@[simp] theorem endTurn_txRet (s : State) : (endTurn s).txRet = none := rfl

end Sys2Proof.Machine
end

