-- ==== Sys2Proof/Laws/Ops.lean ====
section
/-! SUPPORT. One lemma for each shared operation that says everything it can do. -/

namespace Sys2Proof.Machine

@[simp] theorem mapNext_next (f : State → State) (s : State) : mapNext f (.next s) = .next (f s) := rfl
@[simp] theorem mapNext_fault (f : State → State) (r : Fault) : mapNext f (.fault r) = .fault r := rfl
@[simp] theorem mapNext_refused (f : State → State) (r : Refusal) : mapNext f (.refused r) = .refused r := rfl

/-- A mapped outcome is a next state exactly when the outcome is. -/
theorem mapNext_eq_next {f : State → State} {o : Out} {t : State} :
    mapNext f o = .next t ↔ ∃ s', o = .next s' ∧ t = f s' := by
  cases o <;> simp [mapNext, eq_comm]

/-- The last frame of a message, as a condition on numbers (R100). -/
theorem txFinal_iff (s : State) : txFinal s = true ↔ s.txN.toNat - s.txOff.toNat ≤ s.txNb.toNat := decide_eq_true_iff

/-- FrameWrite with a frame and an answer. -/
theorem frameWrite_answered {s : State} {f : Frame} {a : Answer} {rest : List Turn} (hf : s.txFrame = some f)
    (ht : s.turns = .tx (some a) :: rest) :
    frameWrite s = { s with devLog := s.devLog ++ [.write (frameMsg f s) a], txFrame := none, txRet := some a } := by
  simp [frameWrite, writeAnswer, hf, ht, logDevice]

/-- FrameWrite without an answer: the TX engine waits. -/
theorem frameWrite_waits {s : State} (h : writeAnswer s = none) : frameWrite s = s := by
  unfold frameWrite; split <;> simp_all

/-- Everything a frame transmission can do. -/
theorem txSend_cases {kind : TraceKind} {ctl : Byte} {n : Nat} {done : State → State} {s : State} :
    (memRead .tx s.txOff.toNat n s.mem = none ∧ txSend kind ctl n done s = .fault .txFrameUnreadable) ∨
    ∃ bytes, memRead .tx s.txOff.toNat n s.mem = some bytes ∧
      ((writeAnswer s = none ∧ txSend kind ctl n done s = .next s) ∨
       (writeAnswer s = some .err ∧ txSend kind ctl n done s = .next (txFail (clearTxWires
          { s with devLog := s.devLog ++ [.write (frameMsg (ctl :: bytes) s) .err] }))) ∨
       (writeAnswer s = some .ok ∧ txSend kind ctl n done s = .next (done (emitTrace .tx kind (ctl :: bytes) (clearTxWires
          { s with devLog := s.devLog ++ [.write (frameMsg (ctl :: bytes) s) .ok] }))))) := by
  unfold txSend
  cases hm : memRead .tx s.txOff.toNat n s.mem with
  | none => exact .inl ⟨rfl, rfl⟩
  | some bytes =>
    refine .inr ⟨bytes, rfl, ?_⟩
    cases ha : writeAnswer s with
    | none =>
      refine .inl ⟨rfl, ?_⟩
      have hw : writeAnswer { s with txFrame := some (ctl :: bytes), txRet := none } = none := ha
      simp only [frameWrite_waits hw]
    | some a =>
      have hw : writeAnswer { s with txFrame := some (ctl :: bytes), txRet := none } = some a := ha
      cases a with
      | err => refine .inr (.inl ⟨rfl, ?_⟩); simp only [frameWrite, hw]; rfl
      | ok => refine .inr (.inr ⟨rfl, ?_⟩); simp only [frameWrite, hw]; rfl

/-- Everything an accepted frame can do. -/
theorem rxAccept_cases {kind : TraceKind} {off : Nat} {done : State → State} {s : State} :
    (896 < off + (payload (delivered s)).length ∧ rxAccept kind off done s = .fault .rxBufOverflow) ∨
    (off + (payload (delivered s)).length ≤ 896 ∧ rxAccept kind off done s = .next (done (emitTrace .rx kind (delivered s)
      { s with
        mem := Memory.writeBytes s.mem (0x800 + off) (payload (delivered s))
        rxLen := BitVec.ofNat 16 (off + (payload (delivered s)).length)
        rxFrame := none }))) := by
  unfold rxAccept memWrite Config.msgCap
  by_cases h : off + (payload (delivered s)).length ≤ 896
  · exact .inr ⟨h, by rw [if_pos h]; rfl⟩
  · exact .inl ⟨by omega, by rw [if_neg h]⟩

/-- Everything the end of an accepted continuation can do. -/
theorem rxContinue_cases (s : State) :
    (s.iCont = s.nCont.setWidth 8 ∧ rxContinue s = { s with rxState := .s0, rxRes := .ok, rxBusy := false }) ∨
    (s.iCont ≠ s.nCont.setWidth 8 ∧ rxContinue s = { s with iCont := s.iCont + 1#8 }) := by
  unfold rxContinue complete
  split <;> simp_all

/-- Everything the CTL engine's step of OPEN can do. -/
theorem openEngine_cases (s : State) :
    (ctlAnswer s = none ∧ openEngine s = s) ∨
    (ctlAnswer s = some .err ∧
      openEngine s = { s with devLog := s.devLog ++ [.open_ .err], ctlRes := .openFail, ctlBusy := false }) ∨
    (ctlAnswer s = some .ok ∧
      openEngine s = { s with devLog := s.devLog ++ [.open_ .ok], q := [], isOpen := true, ctlRes := .ok, ctlBusy := false }) := by
  unfold openEngine
  rcases ctlAnswer s with _ | _ | _ <;> simp [complete, logDevice]

/-- Everything the CTL engine's step of CLOSE can do. -/
theorem closeEngine_cases (s : State) :
    (ctlAnswer s = none ∧ closeEngine s = s) ∨
    ∃ a, ctlAnswer s = some a ∧
      closeEngine s = { s with
        devLog := s.devLog ++ [.close a], q := [], isOpen := false, ctlBusy := false
        ctlRes := match a with | .ok => .ok | .err => .closeFail } := by
  unfold closeEngine
  rcases ctlAnswer s with _ | _ | _ <;> simp [complete, logDevice]

/-- Everything an issue of WRITE can do. -/
theorem execCmdWrite_cases (s : State) :
    (writeIllegal s = true ∧ execCmdWrite s = .next (raiseCmdError s)) ∨
    (writeIllegal s = false ∧ s.isOpen = false ∧
      execCmdWrite s = .next { s with txCount := 0#16, txRes := .notOpen, txBusy := false }) ∨
    (writeIllegal s = false ∧ s.isOpen = true ∧ 128 * (sizeNb s).toNat < s.txLen.toNat ∧
      execCmdWrite s = .next { s with
        txCount := 0#16, txN := s.txLen, txNb := sizeNb s, txOff := 0#16, txI := 0#8, txRes := .tooLong, txBusy := false }) ∨
    (writeIllegal s = false ∧ s.isOpen = true ∧ s.txLen.toNat ≤ 128 * (sizeNb s).toNat ∧
      memRead .tx 0 s.txLen.toNat s.mem = none ∧ execCmdWrite s = .fault .unwrittenMessage) ∨
    (writeIllegal s = false ∧ s.isOpen = true ∧ s.txLen.toNat ≤ 128 * (sizeNb s).toNat ∧
      (∃ m, memRead .tx 0 s.txLen.toNat s.mem = some m) ∧
      execCmdWrite s = .next { s with
        txCount := 0#16, txN := s.txLen, txNb := sizeNb s, txOff := 0#16, txI := 0#8, txRes := .none, txBusy := true }) := by
  unfold execCmdWrite
  by_cases hi : writeIllegal s = true
  · exact .inl ⟨hi, by rw [if_pos hi]⟩
  · have hi' : writeIllegal s = false := by simpa using hi
    by_cases ho : s.isOpen = false
    · exact .inr (.inl ⟨hi', ho, by rw [if_neg hi, if_pos ho]; rfl⟩)
    · have ho' : s.isOpen = true := by simpa using ho
      by_cases hl : s.txLen.toNat > 128 * (sizeNb s).toNat
      · exact .inr (.inr (.inl ⟨hi', ho', hl, by rw [if_neg hi, if_neg ho, if_pos hl]; rfl⟩))
      · cases hm : memRead .tx 0 s.txLen.toNat s.mem with
        | none =>
          exact .inr (.inr (.inr (.inl ⟨hi', ho', by omega, rfl, by rw [if_neg hi, if_neg ho, if_neg hl]⟩)))
        | some m =>
          exact .inr (.inr (.inr (.inr ⟨hi', ho', by omega, ⟨m, rfl⟩, by rw [if_neg hi, if_neg ho, if_neg hl]; rfl⟩)))

/-- Everything a batch fetch can do. -/
theorem execDevqFetch_cases (s : State) :
    (readAnswer s = none ∧ execDevqFetch s = .next s) ∨
    (readAnswer s = some .err ∧ execDevqFetch s = .next { s with
      devLog := s.devLog ++ [.read .err], rxState := .s0, rxLen := 0#16, rxRes := .devReadErr, rxBusy := false }) ∨
    (∃ ms, readAnswer s = some (.batch ms) ∧ batchOk ms = false ∧ execDevqFetch s = .refused .deviceContract) ∨
    (readAnswer s = some (.batch []) ∧ execDevqFetch s = .next { s with
      devLog := s.devLog ++ [.read (.batch [])], rxState := .s0, rxLen := 0#16, rxRes := .emptyBatch, rxBusy := false }) ∨
    (∃ ms, readAnswer s = some (.batch ms) ∧ batchOk ms = true ∧ ms ≠ [] ∧
      execDevqFetch s = .next { s with devLog := s.devLog ++ [.read (.batch ms)], q := ms }) := by
  unfold execDevqFetch
  cases ha : readAnswer s with
  | none => exact .inl ⟨rfl, rfl⟩
  | some a =>
    cases a with
    | err => exact .inr (.inl ⟨rfl, rfl⟩)
    | batch ms =>
      by_cases hb : batchOk ms = false
      · exact .inr (.inr (.inl ⟨ms, rfl, hb, by simp [hb]⟩))
      · by_cases he : ms = []
        · subst he; exact .inr (.inr (.inr (.inl ⟨rfl, by simp [hb, readFail, complete, resync, logDevice]⟩)))
        · exact .inr (.inr (.inr (.inr ⟨ms, rfl, by simpa using hb, he, by simp [hb, he, logDevice]⟩)))

/-- The device contract, read off the check. -/
theorem batchOk_iff (ms : List CanMsg) : batchOk ms = true ↔ ms.length ≤ 64 ∧ ∀ m ∈ ms, m.data.length ≤ 8 := by
  simp [batchOk]
  exact Iff.rfl

/-- Only FLT.MATCH is followed by a decode in the same step. -/
theorem follow_eq_some {i j : Instr} {s : State} (h : follow i s = some j) :
    ∃ e d f, i = .fltMatch e d ∧ s.rxFrame = some f ∧ j = rxClass s f := by
  unfold follow at h
  split at h
  · next e d =>
    cases hf : s.rxFrame with
    | none => simp [hf] at h
    | some f => exact ⟨e, d, f, rfl, rfl, by simpa [hf, eq_comm] using h⟩
  · cases h

/-- Everything one operation of a step can do. -/
theorem runInstr_next {i : Instr} {s t : State} (h : runInstr i s = .next t) :
    ∃ s', exec i s = .next s' ∧
      ((follow i s' = none ∧ t = s') ∨ ∃ j, follow i s' = some j ∧ exec j s' = .next t) := by
  unfold runInstr at h
  cases he : exec i s with
  | next s' =>
    rw [he] at h
    refine ⟨s', rfl, ?_⟩
    cases hf : follow i s' with
    | none => simp only [hf] at h; cases h; exact .inl ⟨rfl, rfl⟩
    | some j => simp only [hf] at h; exact .inr ⟨j, rfl, h⟩
  | fault r => rw [he] at h; cases h
  | refused r => rw [he] at h; cases h

/-- Everything a step that goes on can do. -/
theorem step_next {s t : State} (h : step s = .next t) :
    (select s = .idle ∧ t = endTurn s) ∨
    (∃ i s', select s = .run i ∧ runInstr i s = .next s' ∧ t = endTurn s') ∨
    (∃ off acc s', select s = .access off acc ∧ hostAccess off acc s = .next s' ∧ t = endTurn s') ∨
    (select s = .reset ∧ t = endTurn (powerOn s)) := by
  obtain ⟨s', hp, rfl⟩ := mapNext_eq_next.mp h
  unfold perform at hp
  split at hp
  · next hs => cases hp; exact .inl ⟨hs, rfl⟩
  · next i hs => exact .inr (.inl ⟨i, s', hs, hp, rfl⟩)
  · next off acc hs => exact .inr (.inr (.inl ⟨off, acc, s', hs, hp, rfl⟩))
  · next hs => cases hp; exact .inr (.inr (.inr ⟨hs, rfl⟩))

end Sys2Proof.Machine
end

