-- ==== Sys2Proof/Laws/HostBus.lean ====
section
/-! SUPPORT. The host's accesses: where an offset lies, and everything an access can do. -/

namespace Sys2Proof.Machine

/-- A 4-aligned offset, as a condition on numbers (R55). -/
theorem aligned4_iff (off : BitVec 12) : aligned4 off = true ↔ off.toNat % 4 = 0 := decide_eq_true_iff

theorem openIllegal_iff (s : State) :
    openIllegal s = true ↔ s.isOpen = true ∨ s.ctlBusy = true ∨ s.txBusy = true ∨ s.rxBusy = true := by
  simp [openIllegal, or_assoc]

theorem closeIllegal_iff (s : State) :
    closeIllegal s = true ↔ s.ctlBusy = true ∨ s.txBusy = true ∨ s.rxBusy = true := by
  simp [closeIllegal, or_assoc]

theorem writeIllegal_iff (s : State) : writeIllegal s = true ↔ s.txBusy = true ∨ s.ctlBusy = true := by
  simp [writeIllegal]

theorem readIllegal_iff (s : State) : readIllegal s = true ↔ s.rxBusy = true ∨ s.ctlBusy = true := by
  simp [readIllegal]

theorem cfgLocked_iff (s : State) : cfgLocked s = true ↔ s.isOpen = true ∨ s.ctlBusy = true := by
  simp [cfgLocked]

/-- The check on SIZE, as a condition on numbers (R24). -/
theorem sizeLegal_iff (v : BitVec 4) : sizeLegal v = true ↔ 2 ≤ v.toNat ∧ v.toNat ≤ 8 := by
  revert v; decide

/-- What lies at an offset, as a condition on numbers (R21). -/
theorem region_cases (off : BitVec 12) :
    (off.toNat < 0x030 ∧ region off = .reg (regAt (off.toNat / 4))) ∨
    (0x400 ≤ off.toNat ∧ off.toNat < 0x780 ∧ region off = .buf .tx) ∨
    (0x800 ≤ off.toNat ∧ off.toNat < 0xB80 ∧ region off = .buf .rx) ∨
    (((0x030 ≤ off.toNat ∧ off.toNat < 0x400) ∨ (0x780 ≤ off.toNat ∧ off.toNat < 0x800) ∨ 0xB80 ≤ off.toNat) ∧
      region off = .reserved) := by
  unfold region
  by_cases h1 : off < 0x030#12
  · exact .inl ⟨h1, if_pos h1⟩
  · rw [if_neg h1]
    have g1 : ¬off.toNat < 0x030 := h1
    by_cases h2 : 0x400#12 ≤ off ∧ off < 0x780#12
    · exact .inr (.inl ⟨h2.1, h2.2, if_pos h2⟩)
    · rw [if_neg h2]
      have g2 : ¬(0x400 ≤ off.toNat ∧ off.toNat < 0x780) := h2
      by_cases h3 : 0x800#12 ≤ off ∧ off < 0xB80#12
      · exact .inr (.inr (.inl ⟨h3.1, h3.2, if_pos h3⟩))
      · have g3 : ¬(0x800 ≤ off.toNat ∧ off.toNat < 0xB80) := h3
        exact .inr (.inr (.inr ⟨by omega, if_neg h3⟩))

/-- The four bytes of a word, or a byte of it that is unwritten (R51). -/
theorem readWord_cases (m : Memory) (a : Nat) :
    (∃ b0 b1 b2 b3, Memory.readBytes m a 4 = some [b0, b1, b2, b3] ∧ Memory.read m a = some b0 ∧
      Memory.read m (a + 1) = some b1 ∧ Memory.read m (a + 2) = some b2 ∧ Memory.read m (a + 3) = some b3) ∨
    (Memory.readBytes m a 4 = none ∧ ∃ k, k < 4 ∧ Memory.read m (a + k) = none) := by
  simp only [Memory.readBytes]
  rcases h0 : Memory.read m a with _ | b0
  · exact .inr ⟨rfl, 0, by omega, h0⟩
  · rcases h1 : Memory.read m (a + 1) with _ | b1
    · exact .inr ⟨rfl, 1, by omega, h1⟩
    · rcases h2 : Memory.read m (a + 1 + 1) with _ | b2
      · exact .inr ⟨rfl, 2, by omega, h2⟩
      · rcases h3 : Memory.read m (a + 1 + 1 + 1) with _ | b3
        · exact .inr ⟨rfl, 3, by omega, h3⟩
        · exact .inl ⟨b0, b1, b2, b3, rfl, rfl, rfl, rfl, rfl⟩

/-- Everything a byte read of a buffer can do. -/
theorem readBuf8_cases (b : Buf) (off : BitVec 12) (s : State) :
    (readHazard b s = true ∧ readBuf8 b off s = .fault .rxBufBusy) ∨
    (readHazard b s = false ∧ Memory.read s.mem off.toNat = none ∧ readBuf8 b off s = .fault .unwrittenByte) ∨
    (∃ v, readHazard b s = false ∧ Memory.read s.mem off.toNat = some v ∧
      readBuf8 b off s = .next { s with busOut := s.busOut ++ [.byte v] }) := by
  unfold readBuf8
  by_cases h : readHazard b s = true
  · exact .inl ⟨h, if_pos h⟩
  · rw [if_neg h]
    simp only [Bool.not_eq_true] at h
    rcases hm : Memory.read s.mem off.toNat with _ | v
    · exact .inr (.inl ⟨h, rfl, rfl⟩)
    · exact .inr (.inr ⟨v, h, rfl, rfl⟩)

/-- Everything a word read of a buffer can do. -/
theorem readBuf32_cases (b : Buf) (off : BitVec 12) (s : State) :
    (readHazard b s = true ∧ readBuf32 b off s = .fault .rxBufBusy) ∨
    (readHazard b s = false ∧ (∃ k, k < 4 ∧ Memory.read s.mem (off.toNat + k) = none) ∧
      readBuf32 b off s = .fault .unwrittenByte) ∨
    (∃ b0 b1 b2 b3, readHazard b s = false ∧ Memory.read s.mem off.toNat = some b0 ∧
      Memory.read s.mem (off.toNat + 1) = some b1 ∧ Memory.read s.mem (off.toNat + 2) = some b2 ∧
      Memory.read s.mem (off.toNat + 3) = some b3 ∧
      readBuf32 b off s = .next { s with busOut := s.busOut ++ [.word (bytesWord b0 b1 b2 b3)] }) := by
  unfold readBuf32
  by_cases h : readHazard b s = true
  · exact .inl ⟨h, if_pos h⟩
  · rw [if_neg h]
    simp only [Bool.not_eq_true] at h
    rcases readWord_cases s.mem off.toNat with ⟨b0, b1, b2, b3, hb, h0, h1, h2, h3⟩ | ⟨hn, hk⟩
    · exact .inr (.inr ⟨b0, b1, b2, b3, h, h0, h1, h2, h3, by rw [hb]; rfl⟩)
    · exact .inr (.inl ⟨h, hk, by rw [hn]⟩)

/-- Everything a buffer write can do. -/
theorem writeBuf_cases (b : Buf) (off : BitVec 12) (v : List Byte) (s : State) :
    (b = .rx ∧ writeBuf b off v s = .fault .readOnly) ∨
    (b = .tx ∧ s.txBusy = true ∧ writeBuf b off v s = .fault .txBufBusy) ∨
    (b = .tx ∧ s.txBusy = false ∧ writeBuf b off v s = .next { s with mem := Memory.writeBytes s.mem off.toNat v }) := by
  cases b with
  | rx => exact .inl ⟨rfl, rfl⟩
  | tx => cases h : s.txBusy <;> simp [writeBuf, h]

/-- What a legal or illegal write of a register other than CMD does: nothing but one sticky bit or one field. -/
inductive RegWrite (s : State) : State → Prop where
  | error : RegWrite s (raiseCmdError s)
  | cfg (v : Word) (unlocked : cfgLocked s = false) (legal : sizeLegal (v.extractLsb' 0 4) = true) :
      RegWrite s { s with size := v.extractLsb' 0 4, txExt := v.getLsbD 8, rxExt := v.getLsbD 9 }
  | txId (v : Word) (unlocked : cfgLocked s = false) : RegWrite s { s with txId := v }
  | rxId (v : Word) (unlocked : cfgLocked s = false) : RegWrite s { s with rxId := v }
  | txLen (v : Word) (idle : s.txBusy = false) : RegWrite s { s with txLen := v.extractLsb' 0 16 }
  | trace (v : Word) : RegWrite s { s with traceEn := v.getLsbD 0 }

/-- Everything a register write that goes on can do. -/
theorem writeReg_next {r : Reg} {v : Word} {s t : State} (h : writeReg r v s = .next t) :
    (r = .cmd ∧ exec (decodeCmd v) s = .next t) ∨ RegWrite s t := by
  cases r <;> simp only [writeReg, reduceCtorEq] at h
  case cmd => exact .inl ⟨rfl, h⟩
  case cfg =>
    refine .inr ?_
    unfold writeCfg at h
    split at h
    · cases h; exact .error
    · next hc =>
      cases h
      simp only [Bool.or_eq_true, Bool.not_eq_true', not_or, Bool.not_eq_true, Bool.not_eq_false] at hc
      exact .cfg v hc.1 hc.2
  case txId =>
    refine .inr ?_
    unfold lockedWrite at h
    split at h
    · cases h; exact .error
    · next hc => cases h; exact .txId v (by simpa using hc)
  case rxId =>
    refine .inr ?_
    unfold lockedWrite at h
    split at h
    · cases h; exact .error
    · next hc => cases h; exact .rxId v (by simpa using hc)
  case txLen =>
    refine .inr ?_
    unfold writeTxLen at h
    split at h
    · cases h; exact .error
    · next hc => cases h; exact .txLen v (by simpa using hc)
  case trace => cases h; exact .inr (.trace v)

/-- Everything a host access that goes on can do: a read returns data, a write changes bytes of TXBUF, issues a command, or
writes a register. -/
theorem hostAccess_next {off : BitVec 12} {acc : Access} {s t : State} (h : hostAccess off acc s = .next t) :
    ((∀ v, acc ≠ .w8 v) ∧ (∀ v, acc ≠ .w32 v) ∧ ∃ d, t = { s with busOut := s.busOut ++ [d] }) ∨
    (∃ bs, ((∃ v, acc = .w8 v ∧ bs = [v]) ∨ (∃ v, acc = .w32 v ∧ bs = wordBytes v)) ∧ s.txBusy = false ∧ 0x400 ≤ off.toNat ∧ off.toNat + bs.length ≤ 0x780 ∧
      t = { s with mem := Memory.writeBytes s.mem off.toNat bs }) ∨
    (∃ v, acc = .w32 v ∧ off.toNat < 4 ∧ exec (decodeCmd v) s = .next t) ∨
    ((∃ v, acc = .w32 v) ∧ RegWrite s t) := by
  unfold hostAccess at h
  rcases region_cases off with ⟨h1, hr⟩ | ⟨h1, h2, hr⟩ | ⟨h1, h2, hr⟩ | ⟨h1, hr⟩ <;> rw [hr] at h
  · cases acc <;> simp only [accessReg, reduceCtorEq] at h
    case r32 =>
      split at h
      · cases h; exact .inl ⟨by simp, by simp, _, rfl⟩
      · cases h
    case w32 v =>
      split at h
      · rcases writeReg_next h with ⟨hc, h⟩ | h
        · refine .inr (.inr (.inl ⟨v, rfl, ?_, h⟩))
          by_contra hlt
          have : off.toNat / 4 ≠ 0 := by omega
          have hk : off.toNat / 4 < 12 := by omega
          generalize off.toNat / 4 = k at this hk hc
          interval_cases k <;> simp_all [regAt]
        · exact .inr (.inr (.inr ⟨⟨v, rfl⟩, h⟩))
      · cases h
  · cases acc <;> simp only [accessBuf, reduceCtorEq] at h
    case r8 =>
      rcases readBuf8_cases .tx off s with ⟨_, e⟩ | ⟨_, _, e⟩ | ⟨v, _, _, e⟩ <;> rw [e] at h <;> cases h
      exact .inl ⟨by simp, by simp, _, rfl⟩
    case w8 v =>
      rcases writeBuf_cases .tx off [v] s with ⟨hc, _⟩ | ⟨_, _, e⟩ | ⟨_, hb, e⟩
      · cases hc
      · rw [e] at h; cases h
      · rw [e] at h; cases h
        exact .inr (.inl ⟨[v], .inl ⟨v, rfl, rfl⟩, hb, h1, by simp only [List.length_singleton]; omega, rfl⟩)
    case r32 =>
      split at h
      · rcases readBuf32_cases .tx off s with ⟨_, e⟩ | ⟨_, _, e⟩ | ⟨_, _, _, _, _, _, _, _, _, e⟩ <;> rw [e] at h <;> cases h
        exact .inl ⟨by simp, by simp, _, rfl⟩
      · cases h
    case w32 v =>
      split at h
      · next ha =>
        rw [aligned4_iff] at ha
        rcases writeBuf_cases .tx off (wordBytes v) s with ⟨hc, _⟩ | ⟨_, _, e⟩ | ⟨_, hb, e⟩
        · cases hc
        · rw [e] at h; cases h
        · rw [e] at h; cases h
          exact .inr (.inl ⟨wordBytes v, .inr ⟨v, rfl, rfl⟩, hb, h1, by simp only [wordBytes, List.length_cons, List.length_nil]; omega, rfl⟩)
      · cases h
  · cases acc <;> simp only [accessBuf, reduceCtorEq] at h
    case r8 =>
      rcases readBuf8_cases .rx off s with ⟨_, e⟩ | ⟨_, _, e⟩ | ⟨v, _, _, e⟩ <;> rw [e] at h <;> cases h
      exact .inl ⟨by simp, by simp, _, rfl⟩
    case w8 v => cases h
    case r32 =>
      split at h
      · rcases readBuf32_cases .rx off s with ⟨_, e⟩ | ⟨_, _, e⟩ | ⟨_, _, _, _, _, _, _, _, _, e⟩ <;> rw [e] at h <;> cases h
        exact .inl ⟨by simp, by simp, _, rfl⟩
      · cases h
    case w32 v =>
      split at h <;> cases h
  · cases h

/-- A command issued by the host looks at the moves to come only to tell that none is the CTL engine's (log entry 5). -/
theorem exec_decodeCmd_turns (v : Word) (s : State) {l : List Turn} (h : ctlEngineMoves s = false)
    (hl : ctlEngineMoves { s with turns := l } = false) :
    exec (decodeCmd v) { s with turns := l } = mapNext (fun t => { t with turns := l }) (exec (decodeCmd v) s) := by
  rcases decodeCode_cases (v.extractLsb' 0 8) with ⟨_, e⟩ | ⟨_, e⟩ | ⟨_, e⟩ | ⟨_, e⟩ | ⟨_, _, _, _, e⟩ <;>
    rw [show decodeCmd v = _ from e]
  · simp only [exec, execCmdOpen, h, hl, Bool.false_eq_true, if_false]
    change (if openIllegal s then _ else _) = _
    split <;> rfl
  · simp only [exec, execCmdClose, h, hl, Bool.false_eq_true, if_false]
    change (if closeIllegal s then _ else if s.isOpen then _ else _) = _
    split
    · rfl
    · split <;> rfl
  · simp only [exec, execCmdWrite]
    change (if writeIllegal s then _ else if s.isOpen = false then _ else if s.txLen.toNat > 128 * (sizeNb s).toNat then _ else _) = _
    split
    · rfl
    · split
      · rfl
      · split
        · rfl
        · rcases memRead .tx 0 s.txLen.toNat s.mem with _ | b <;> rfl
  · simp only [exec, execCmdRead]
    change (if readIllegal s then _ else if s.isOpen then _ else _) = _
    split
    · rfl
    · split <;> rfl
  · rfl

/-- A host access looks at the moves to come no further. -/
theorem hostAccess_turns (off : BitVec 12) (acc : Access) (s : State) {l : List Turn} (h : ctlEngineMoves s = false)
    (hl : ctlEngineMoves { s with turns := l } = false) :
    hostAccess off acc { s with turns := l } = mapNext (fun t => { t with turns := l }) (hostAccess off acc s) := by
  have hc : cfgLocked { s with turns := l } = cfgLocked s := rfl
  unfold hostAccess
  rcases region off with r | b | _
  · cases acc <;> simp only [accessReg, mapNext_fault]
    case r32 => split <;> rfl
    case w32 v =>
      split
      · cases r
        case cmd => exact exec_decodeCmd_turns _ s h hl
        case cfg =>
          simp only [writeReg, writeCfg, hc]
          cases cfgLocked s <;> cases sizeLegal (v.extractLsb' 0 4) <;> rfl
        case txId => simp only [writeReg, lockedWrite, hc]; cases cfgLocked s <;> rfl
        case rxId => simp only [writeReg, lockedWrite, hc]; cases cfgLocked s <;> rfl
        case txLen => simp only [writeReg, writeTxLen, mapNext_next]; split <;> rfl
        all_goals rfl
      · rfl
  · have h8 : readBuf8 b off { s with turns := l } = mapNext (fun t => { t with turns := l }) (readBuf8 b off s) := by
      unfold readBuf8
      change (if readHazard b s = true then _ else _) = _
      split
      · rfl
      · change (match Memory.read s.mem off.toNat with | some v => _ | none => _) = _
        cases Memory.read s.mem off.toNat <;> rfl
    have h32 : readBuf32 b off { s with turns := l } = mapNext (fun t => { t with turns := l }) (readBuf32 b off s) := by
      unfold readBuf32
      change (if readHazard b s = true then _ else _) = _
      split
      · rfl
      · rcases readWord_cases s.mem off.toNat with ⟨_, _, _, _, hb, _⟩ | ⟨hn, _⟩
        · rw [hb]; rfl
        · rw [hn]; rfl
    have hw (v : List Byte) : writeBuf b off v { s with turns := l } = mapNext (fun t => { t with turns := l }) (writeBuf b off v s) := by
      cases b
      · simp only [writeBuf]; split <;> rfl
      · rfl
    cases acc <;> simp only [accessBuf, mapNext_fault, h8, hw]
    · split
      · exact h32
      · rfl
    · split <;> rfl
  · rfl

end Sys2Proof.Machine
end

