-- ==== Sys2Proof/Laws/Exec.lean ====
section
/-! SUPPORT. What no instruction changes, whichever it is. -/

namespace Sys2Proof.Machine

/-- A later state keeps the configuration, TRACE.EN, TX_LEN, the moves to come, the host's data, and a set CMD_ERR. -/
structure Keeps (s t : State) : Prop where
  size : t.size = s.size
  txExt : t.txExt = s.txExt
  rxExt : t.rxExt = s.rxExt
  txId : t.txId = s.txId
  rxId : t.rxId = s.rxId
  traceEn : t.traceEn = s.traceEn
  txLen : t.txLen = s.txLen
  turns : t.turns = s.turns
  busOut : t.busOut = s.busOut
  cmdErr : s.cmdErr = true → t.cmdErr = true

theorem Keeps.refl (s : State) : Keeps s s := ⟨rfl, rfl, rfl, rfl, rfl, rfl, rfl, rfl, rfl, id⟩

theorem Keeps.trans {s t u : State} (h : Keeps s t) (k : Keeps t u) : Keeps s u :=
  ⟨k.size.trans h.size, k.txExt.trans h.txExt, k.rxExt.trans h.rxExt, k.txId.trans h.txId, k.rxId.trans h.rxId,
    k.traceEn.trans h.traceEn, k.txLen.trans h.txLen, k.turns.trans h.turns, k.busOut.trans h.busOut,
    fun e => k.cmdErr (h.cmdErr e)⟩

theorem keeps_txSend {kind : TraceKind} {ctl : Byte} {n : Nat} {done : State → State} {s t : State}
    (hd : ∀ u, Keeps u (done u)) (h : txSend kind ctl n done s = .next t) : Keeps s t := by
  rcases txSend_cases (kind := kind) (ctl := ctl) (n := n) (done := done) (s := s) with
    ⟨_, e⟩ | ⟨bytes, _, ⟨_, e⟩ | ⟨_, e⟩ | ⟨_, e⟩⟩ <;> rw [e] at h <;> cases h
  · exact .refl s
  · exact ⟨rfl, rfl, rfl, rfl, rfl, rfl, rfl, rfl, rfl, id⟩
  · refine Keeps.trans ?_ (hd _)
    exact ⟨rfl, rfl, rfl, rfl, rfl, rfl, rfl, rfl, rfl, id⟩

theorem keeps_rxAccept {kind : TraceKind} {off : Nat} {done : State → State} {s t : State}
    (hd : ∀ u, Keeps u (done u)) (h : rxAccept kind off done s = .next t) : Keeps s t := by
  rcases rxAccept_cases (kind := kind) (off := off) (done := done) (s := s) with ⟨_, e⟩ | ⟨_, e⟩ <;> rw [e] at h <;> cases h
  refine Keeps.trans ?_ (hd _)
  exact ⟨rfl, rfl, rfl, rfl, rfl, rfl, rfl, rfl, rfl, id⟩

theorem keeps_frameWrite (s : State) : Keeps s (frameWrite s) := by
  unfold frameWrite
  split
  · exact ⟨rfl, rfl, rfl, rfl, rfl, rfl, rfl, rfl, rfl, id⟩
  · exact .refl s

theorem keeps_cmdErr (s : State) : Keeps s (raiseCmdError s) := ⟨rfl, rfl, rfl, rfl, rfl, rfl, rfl, rfl, rfl, fun _ => rfl⟩

theorem keeps_execCmdOpen {s t : State} (h : execCmdOpen s = .next t) : Keeps s t := by
  unfold execCmdOpen at h
  split at h
  · cases h
    rcases openEngine_cases s with ⟨_, e⟩ | ⟨_, e⟩ | ⟨_, e⟩ <;> rw [e]
    · exact .refl s
    · exact ⟨rfl, rfl, rfl, rfl, rfl, rfl, rfl, rfl, rfl, id⟩
    · exact ⟨rfl, rfl, rfl, rfl, rfl, rfl, rfl, rfl, rfl, id⟩
  · split at h <;> cases h
    · exact keeps_cmdErr s
    · exact ⟨rfl, rfl, rfl, rfl, rfl, rfl, rfl, rfl, rfl, id⟩

theorem keeps_execCmdClose {s t : State} (h : execCmdClose s = .next t) : Keeps s t := by
  unfold execCmdClose at h
  split at h
  · cases h
    rcases closeEngine_cases s with ⟨_, e⟩ | ⟨_, _, e⟩ <;> rw [e]
    · exact .refl s
    · exact ⟨rfl, rfl, rfl, rfl, rfl, rfl, rfl, rfl, rfl, id⟩
  · split at h
    · cases h
      exact keeps_cmdErr s
    · split at h <;> cases h <;> exact ⟨rfl, rfl, rfl, rfl, rfl, rfl, rfl, rfl, rfl, id⟩

theorem keeps_execCmdWrite {s t : State} (h : execCmdWrite s = .next t) : Keeps s t := by
  rcases execCmdWrite_cases s with ⟨_, e⟩ | ⟨_, _, e⟩ | ⟨_, _, _, e⟩ | ⟨_, _, _, _, e⟩ | ⟨_, _, _, _, e⟩ <;>
    rw [e] at h <;> cases h
  · exact keeps_cmdErr s
  all_goals exact ⟨rfl, rfl, rfl, rfl, rfl, rfl, rfl, rfl, rfl, id⟩

theorem keeps_execCmdRead {s t : State} (h : execCmdRead s = .next t) : Keeps s t := by
  unfold execCmdRead at h
  split at h
  · cases h
    exact keeps_cmdErr s
  · split at h <;> cases h <;> exact ⟨rfl, rfl, rfl, rfl, rfl, rfl, rfl, rfl, rfl, id⟩

theorem keeps_txFinish (s : State) : Keeps s (txFinish s) := ⟨rfl, rfl, rfl, rfl, rfl, rfl, rfl, rfl, rfl, id⟩

theorem keeps_txAdvance (s : State) : Keeps s (txAdvance s) := ⟨rfl, rfl, rfl, rfl, rfl, rfl, rfl, rfl, rfl, id⟩

theorem keeps_rxAnomaly (f : Frame) (s : State) : Keeps s (rxAnomaly f s) := ⟨rfl, rfl, rfl, rfl, rfl, rfl, rfl, rfl, rfl, id⟩

theorem keeps_resync (s : State) : Keeps s (resync s) := ⟨rfl, rfl, rfl, rfl, rfl, rfl, rfl, rfl, rfl, id⟩

theorem keeps_completeRx (s : State) : Keeps s (complete .rx .ok s) := ⟨rfl, rfl, rfl, rfl, rfl, rfl, rfl, rfl, rfl, id⟩

theorem keeps_rxBegin (n : BitVec 7) (s : State) : Keeps s (rxBegin n s) := ⟨rfl, rfl, rfl, rfl, rfl, rfl, rfl, rfl, rfl, id⟩

theorem keeps_rxContinue (s : State) : Keeps s (rxContinue s) := by
  rcases rxContinue_cases s with ⟨_, e⟩ | ⟨_, e⟩ <;> rw [e] <;> exact ⟨rfl, rfl, rfl, rfl, rfl, rfl, rfl, rfl, rfl, id⟩

theorem keeps_popQueue (s : State) : Keeps s (popQueue s) := ⟨rfl, rfl, rfl, rfl, rfl, rfl, rfl, rfl, rfl, id⟩

theorem keeps_execDevqFetch {s t : State} (h : execDevqFetch s = .next t) : Keeps s t := by
  rcases execDevqFetch_cases s with ⟨_, e⟩ | ⟨_, e⟩ | ⟨_, _, _, e⟩ | ⟨_, e⟩ | ⟨_, _, _, _, e⟩ <;> rw [e] at h <;> cases h
  · exact .refl _
  all_goals exact ⟨rfl, rfl, rfl, rfl, rfl, rfl, rfl, rfl, rfl, id⟩

/-- What no instruction changes: the registers that only the host writes (R23, R26, R27, R31, R35), and a set CMD_ERR (R154). -/
theorem exec_keeps {i : Instr} {s t : State} (h : exec i s = .next t) : Keeps s t := by
  cases i with
  | cmdOpen => exact keeps_execCmdOpen h
  | cmdClose => exact keeps_execCmdClose h
  | cmdWrite => exact keeps_execCmdWrite h
  | cmdRead => exact keeps_execCmdRead h
  | cmdReserved code => cases h; exact keeps_cmdErr s
  | txSingle => exact keeps_txSend keeps_txFinish h
  | txStart n => exact keeps_txSend keeps_txAdvance h
  | txCont k => exact keeps_txSend keeps_txAdvance h
  | txContLast k => exact keeps_txSend keeps_txFinish h
  | rxZeroLen st => cases h; exact (keeps_rxAnomaly [] s).trans (keeps_resync _)
  | rxSingle => exact keeps_rxAccept keeps_completeRx h
  | rxMalformed n => cases h; exact keeps_rxAnomaly _ s
  | rxStart n => exact keeps_rxAccept (keeps_rxBegin n) h
  | rxCont k => exact keeps_rxAccept keeps_rxContinue h
  | rxOutOfSeq ctl => cases h; exact (keeps_rxAnomaly _ s).trans (keeps_resync _)
  | fltStatus ext id => cases h; exact keeps_popQueue s
  | fltExtMismatch ext id => cases h; exact keeps_popQueue s
  | fltIdMismatch ext id => cases h; exact keeps_popQueue s
  | fltMatch ext ident =>
    cases h
    refine (keeps_popQueue s).trans ?_
    exact ⟨rfl, rfl, rfl, rfl, rfl, rfl, rfl, rfl, rfl, id⟩
  | devqFetch => exact keeps_execDevqFetch h
  | cantxFrame => cases h; exact keeps_frameWrite s

end Sys2Proof.Machine
end

