-- ==== Sys2Proof/Laws/PerInstr.lean ====
section
/-! SUPPORT. The family TableRow: the encoded word of every well-formed instruction is a word of its row of spec/opcode_table.json. -/

namespace Sys2Proof.Laws

/-- An instruction's word against the `match` and `mask` of a row whose format has that instruction's bits. -/
def rowHolds (w : Encoded) (mask value : Nat) : Prop :=
  match w with
  | .cmd v => v.toNat &&& mask = value
  | .segTx ctl => ctl.toNat &&& mask = value
  | .segRx d => d.toNat &&& mask = value
  | .canf f => f.toNat &&& mask = value
  | .devq => False
  | .cantx => False

/-- The filter rows fix bit 33 of the word (30_encoding.md R81). -/
def statusBit (w : Encoded) (b : Bool) : Prop :=
  match w with
  | .canf f => f.getLsbD 33 = b
  | _ => False

/-- A well-formed instruction's word meets its row: mask and match, and the row's conditions on the word's bits
(30_encoding.md R72 to R84, R94). -/
def TableRow.Statement (i : Instr) : Prop :=
  i.wf = true →
  match i with
  | .cmdOpen => rowHolds (encode i) 0xFF 0x01
  | .cmdClose => rowHolds (encode i) 0xFF 0x02
  | .cmdWrite => rowHolds (encode i) 0xFF 0x10
  | .cmdRead => rowHolds (encode i) 0xFF 0x20
  | .cmdReserved code => rowHolds (encode i) 0xFF code.toNat ∧ code.toNat ∉ [0x01, 0x02, 0x10, 0x20]
  | .txSingle => rowHolds (encode i) 0xFF 0x00
  | .txStart n => rowHolds (encode i) 0x80 0x80 ∧ rowHolds (encode i) 0x7F n.toNat ∧ 1 ≤ n.toNat
  | .txCont k => rowHolds (encode i) 0x80 0x00 ∧ rowHolds (encode i) 0x7F k.toNat ∧ 1 ≤ k.toNat ∧ k.toNat ≤ 126
  | .txContLast k => rowHolds (encode i) 0x80 0x00 ∧ rowHolds (encode i) 0x7F k.toNat ∧ 1 ≤ k.toNat
  | .rxZeroLen _ => rowHolds (encode i) 0x1FF 0x000
  | .rxSingle => rowHolds (encode i) 0x3FF 0x100
  | .rxMalformed n => rowHolds (encode i) 0x380 0x100 ∧ rowHolds (encode i) 0x7F n.toNat ∧ n.toNat ≠ 0
  | .rxStart n => rowHolds (encode i) 0x380 0x180 ∧ rowHolds (encode i) 0x7F n.toNat
  | .rxCont k => rowHolds (encode i) 0x380 0x300 ∧ rowHolds (encode i) 0x7F k.toNat
  | .rxOutOfSeq ctl => rowHolds (encode i) 0x300 0x300 ∧ rowHolds (encode i) 0xFF ctl.toNat
  | .fltStatus _ _ => statusBit (encode i) true
  | .fltExtMismatch _ _ => statusBit (encode i) false
  | .fltIdMismatch _ _ => statusBit (encode i) false
  | .fltMatch _ _ => statusBit (encode i) false
  | .devqFetch => encode i = .devq
  | .cantxFrame => encode i = .cantx

theorem TableRow.cmdOpen : TableRow.Statement .cmdOpen := fun _ => rfl

theorem TableRow.cmdClose : TableRow.Statement .cmdClose := fun _ => rfl

theorem TableRow.cmdWrite : TableRow.Statement .cmdWrite := fun _ => rfl

theorem TableRow.cmdRead : TableRow.Statement .cmdRead := fun _ => rfl

theorem TableRow.cmdReserved (code : Byte) : TableRow.Statement (.cmdReserved code) := by
  intro h
  refine ⟨?_, ?_⟩
  · show (0#24 ++ code : Word).toNat &&& 0xFF = _
    rw [cmdWord_toNat]
    revert code; decide
  · revert code; decide

theorem TableRow.txSingle : TableRow.Statement .txSingle := fun _ => rfl

theorem TableRow.txStart (n : BitVec 7) : TableRow.Statement (.txStart n) := by
  show Instr.startCountOk n = true → (startCtl n).toNat &&& 0x80 = 0x80 ∧ (startCtl n).toNat &&& 0x7F = n.toNat ∧ 1 ≤ n.toNat
  revert n; decide

theorem TableRow.txCont (k : BitVec 7) : TableRow.Statement (.txCont k) := by
  show Instr.fullIndexOk k = true →
    (contCtl k).toNat &&& 0x80 = 0x00 ∧ (contCtl k).toNat &&& 0x7F = k.toNat ∧ 1 ≤ k.toNat ∧ k.toNat ≤ 126
  revert k; decide

theorem TableRow.txContLast (k : BitVec 7) : TableRow.Statement (.txContLast k) := by
  show Instr.lastIndexOk k = true → (contCtl k).toNat &&& 0x80 = 0x00 ∧ (contCtl k).toNat &&& 0x7F = k.toNat ∧ 1 ≤ k.toNat
  revert k; decide

theorem TableRow.rxZeroLen (st : RxState) : TableRow.Statement (.rxZeroLen st) := by
  intro _; cases st <;> rfl

theorem TableRow.rxSingle : TableRow.Statement .rxSingle := fun _ => rfl

theorem TableRow.rxMalformed (n : BitVec 7) : TableRow.Statement (.rxMalformed n) := by
  show Instr.malformedOk n = true → (dw .s0 true (contCtl n)).toNat &&& 0x380 = 0x100 ∧
    (dw .s0 true (contCtl n)).toNat &&& 0x7F = n.toNat ∧ n.toNat ≠ 0
  revert n; decide

theorem TableRow.rxStart (n : BitVec 7) : TableRow.Statement (.rxStart n) := by
  intro _
  show (dw .s0 true (startCtl n)).toNat &&& 0x380 = 0x180 ∧ (dw .s0 true (startCtl n)).toNat &&& 0x7F = n.toNat
  revert n; decide

theorem TableRow.rxCont (k : BitVec 7) : TableRow.Statement (.rxCont k) := by
  intro _
  show (dw .s1 true (contCtl k)).toNat &&& 0x380 = 0x300 ∧ (dw .s1 true (contCtl k)).toNat &&& 0x7F = k.toNat
  revert k; decide

theorem TableRow.rxOutOfSeq (ctl : Byte) : TableRow.Statement (.rxOutOfSeq ctl) := by
  intro _
  show (dw .s1 true ctl).toNat &&& 0x300 = 0x300 ∧ (dw .s1 true ctl).toNat &&& 0xFF = ctl.toNat
  revert ctl; decide

theorem TableRow.fltStatus (ext : Bool) (id : Word) : TableRow.Statement (.fltStatus ext id) := fun _ => fw_status true ext id

theorem TableRow.fltExtMismatch (ext : Bool) (id : Word) : TableRow.Statement (.fltExtMismatch ext id) :=
  fun _ => fw_status false ext id

theorem TableRow.fltIdMismatch (ext : Bool) (id : Word) : TableRow.Statement (.fltIdMismatch ext id) :=
  fun _ => fw_status false ext id

theorem TableRow.fltMatch (ext : Bool) (id : Word) : TableRow.Statement (.fltMatch ext id) := fun _ => fw_status false ext id

theorem TableRow.devqFetch : TableRow.Statement .devqFetch := fun _ => rfl

theorem TableRow.cantxFrame : TableRow.Statement .cantxFrame := fun _ => rfl

end Sys2Proof.Laws
end

