-- ==== Sys2Proof/Laws/Step.lean ====
section
/-! SUPPORT. Everything one move of each agent can do, for the whole-machine rules. -/

namespace Sys2Proof.Machine

/-- The accepted continuation's index against NCONT, as a condition on numbers (R117). -/
theorem iCont_eq_nCont_iff (s : State) : s.iCont = s.nCont.setWidth 8 ↔ s.iCont.toNat = s.nCont.toNat := by
  rw [← BitVec.toNat_inj]
  have := s.nCont.isLt
  simp only [BitVec.toNat_setWidth]
  omega

/-- The continuation that ends the message (R117). -/
theorem rxContinue_last {s : State} (h : s.iCont.toNat = s.nCont.toNat) :
    rxContinue s = { s with rxState := .s0, rxRes := .ok, rxBusy := false } := by
  rcases rxContinue_cases s with ⟨_, e⟩ | ⟨hn, _⟩
  · exact e
  · exact absurd ((iCont_eq_nCont_iff s).2 h) hn

/-- A continuation that does not end the message (R117). -/
theorem rxContinue_more {s : State} (h : s.iCont.toNat ≠ s.nCont.toNat) :
    rxContinue s = { s with iCont := s.iCont + 1#8 } := by
  rcases rxContinue_cases s with ⟨he, _⟩ | ⟨_, e⟩
  · exact absurd ((iCont_eq_nCont_iff s).1 he) h
  · exact e

/-- A filter verdict, as what it does to the next message (R139). -/
theorem fltClass_cases (s : State) (m : CanMsg) :
    (passes s m = true ∧ fltClass s m = .fltMatch m.ext m.id) ∨
    (passes s m = false ∧ (fltClass s m = .fltStatus m.ext m.id ∨ fltClass s m = .fltExtMismatch m.ext m.id ∨
      fltClass s m = .fltIdMismatch m.ext m.id)) := by
  simp only [fltClass, msgFw, decodeFlt, fw_status, fw_ext, fw_id, passes]
  cases m.status <;> by_cases he : m.ext = s.rxExt <;> by_cases hi : m.id = s.rxId <;> simp [he, hi]

/-- A skipped message only leaves the queue (R140, R141, R142). -/
theorem runInstr_skip {s : State} {m : CanMsg} (h : passes s m = false) :
    runInstr (fltClass s m) s = .next { s with q := s.q.tail } := by
  rcases fltClass_cases s m with ⟨hp, _⟩ | ⟨_, hc | hc | hc⟩
  · rw [h] at hp; cases hp
  all_goals rw [hc]; rfl

/-- A delivered message is popped and decoded in the same step (R137, R143). -/
theorem runInstr_match {s : State} {m : CanMsg} {q : List CanMsg} (hq : s.q = m :: q) (h : passes s m = true) :
    runInstr (fltClass s m) s = exec (rxClass s m.data) { s with q := q, rxFrame := some m.data } := by
  rcases fltClass_cases s m with ⟨_, hc⟩ | ⟨hp, _⟩
  · rw [hc]
    simp only [runInstr, exec, execFltMatch, popQueue, hq, List.head?_cons, List.tail_cons, Option.map_some, follow, rxClass,
      decodeCtl]
  · rw [h] at hp; cases hp

/-- What the decode of a frame does to the receiver, with the state `s` before the pop (R113 to R118). -/
inductive Decoded (s : State) (q : List CanMsg) (rest : List Turn) (f : Frame) : State → Prop where
  | anomaly (kind : isAnomaly (rxClass s f) = true) (st : RxState) (n : BitVec 16)
      (after : (st = .s0 ∧ n = 0#16) ∨ (s.rxState = .s0 ∧ st = .s0 ∧ n = s.rxLen)) :
      Decoded s q rest f { s with
        q := q, errCnt := s.errCnt + 1#32, rxState := st, rxLen := n, trace := traced s .rx .unknown f, turns := rest }
  | single (kind : rxClass s f = .rxSingle) (state : s.rxState = .s0) (fits : (payload f).length ≤ 896) :
      Decoded s q rest f { s with
        q := q, mem := Memory.writeBytes s.mem 0x800 (payload f), rxLen := BitVec.ofNat 16 (payload f).length, rxRes := .ok,
        rxBusy := false, trace := traced s .rx .single f, turns := rest }
  | start (n : BitVec 7) (kind : rxClass s f = .rxStart n) (state : s.rxState = .s0) (fits : (payload f).length ≤ 896) :
      Decoded s q rest f { s with
        q := q, mem := Memory.writeBytes s.mem 0x800 (payload f), rxLen := BitVec.ofNat 16 (payload f).length, nCont := n,
        iCont := 1#8, rxState := .s1, trace := traced s .rx .start f, turns := rest }
  | last (i : BitVec 7) (kind : rxClass s f = .rxCont i) (index : contCtl i = s.iCont) (state : s.rxState = .s1)
      (fits : s.rxLen.toNat + (payload f).length ≤ 896) (done : s.iCont.toNat = s.nCont.toNat) :
      Decoded s q rest f { s with
        q := q, mem := Memory.writeBytes s.mem (0x800 + s.rxLen.toNat) (payload f),
        rxLen := BitVec.ofNat 16 (s.rxLen.toNat + (payload f).length), rxState := .s0, rxRes := .ok, rxBusy := false,
        trace := traced s .rx .cont f, turns := rest }
  | cont (i : BitVec 7) (kind : rxClass s f = .rxCont i) (index : contCtl i = s.iCont) (state : s.rxState = .s1)
      (fits : s.rxLen.toNat + (payload f).length ≤ 896) (more : s.iCont.toNat ≠ s.nCont.toNat) :
      Decoded s q rest f { s with
        q := q, mem := Memory.writeBytes s.mem (0x800 + s.rxLen.toNat) (payload f),
        rxLen := BitVec.ofNat 16 (s.rxLen.toNat + (payload f).length), iCont := s.iCont + 1#8,
        trace := traced s .rx .cont f, turns := rest }

/-- The class of a frame, with what it says of the receive state (R78). -/
theorem rxClass_cases (s : State) (f : Frame) :
    (∃ st, rxClass s f = .rxZeroLen st ∧ f = []) ∨
    (∃ n, rxClass s f = .rxMalformed n ∧ s.rxState = .s0) ∨
    (∃ c, rxClass s f = .rxOutOfSeq c) ∨
    (rxClass s f = .rxSingle ∧ s.rxState = .s0) ∨
    (∃ n, rxClass s f = .rxStart n ∧ s.rxState = .s0) ∨
    (∃ i, rxClass s f = .rxCont i ∧ s.rxState = .s1 ∧ contCtl i = s.iCont) := by
  cases f with
  | nil => exact .inl ⟨_, rfl, rfl⟩
  | cons c r =>
    cases hs : s.rxState with
    | s0 =>
      simp only [rxClass, decodeCtl, hs]
      split_ifs <;> simp
    | s1 =>
      simp only [rxClass, decodeCtl, hs]
      split_ifs with h
      · have hi := contCtl_ctlLow h.1
        rw [h.2] at hi
        simp [h.2, hi]
      · simp

/-- The decode of a delivered frame, through to the end of the step: what it does, or the one bound it can pass. -/
theorem exec_rxClass {s : State} {q : List CanMsg} {rest : List Turn} {f : Frame} (ht : s.turns.tail = rest)
    (hw : s.wiresClear) :
    (∃ t, mapNext endTurn (exec (rxClass s f) { s with q := q, rxFrame := some f }) = .next t ∧ Decoded s q rest f t) ∨
    ((896 < (payload f).length ∨ (s.rxState = .s1 ∧ (∃ i, contCtl i = s.iCont) ∧ 896 < s.rxLen.toNat + (payload f).length)) ∧
      exec (rxClass s f) { s with q := q, rxFrame := some f } = .fault .rxBufOverflow) := by
  obtain ⟨u, rfl⟩ : ∃ u : State, s = { u with rxFrame := none, txFrame := none, txRet := none } := by
    obtain ⟨w1, w2, w3⟩ := hw
    refine ⟨s, ?_⟩
    cases s
    simp_all
  generalize hs : ({ u with rxFrame := none, txFrame := none, txRet := none } : State) = s at *
  subst ht
  have hd : delivered { s with q := q, rxFrame := some f } = f := rfl
  rcases rxClass_cases s f with ⟨st, hc, hf⟩ | ⟨n, hc, h0⟩ | ⟨c, hc⟩ | ⟨hc, h0⟩ | ⟨n, hc, h0⟩ | ⟨i, hc, h1, hi⟩
  · have hk := Decoded.anomaly (q := q) (rest := s.turns.tail) (f := f) (by rw [hc]; rfl) .s0 0#16 (.inl ⟨rfl, rfl⟩)
    rw [hc, hf]
    rw [hf] at hk
    refine .inl ⟨_, rfl, ?_⟩
    subst hs; exact hk
  · have hk := Decoded.anomaly (q := q) (rest := s.turns.tail) (f := f) (by rw [hc]; rfl) s.rxState s.rxLen (.inr ⟨h0, h0, rfl⟩)
    rw [hc]
    refine .inl ⟨_, rfl, ?_⟩
    subst hs; exact hk
  · have hk := Decoded.anomaly (q := q) (rest := s.turns.tail) (f := f) (by rw [hc]; rfl) .s0 0#16 (.inl ⟨rfl, rfl⟩)
    rw [hc]
    refine .inl ⟨_, rfl, ?_⟩
    subst hs; exact hk
  · rcases rxAccept_cases (kind := .single) (off := 0) (done := complete .rx .ok)
      (s := { s with q := q, rxFrame := some f }) with ⟨hl, e⟩ | ⟨hl, e⟩ <;> rw [hd] at hl
    · exact .inr ⟨.inl (by omega), by rw [hc]; exact e⟩
    · have hk := Decoded.single (q := q) (rest := s.turns.tail) (f := f) hc h0 (by omega)
      refine .inl ⟨_, by rw [hc, show exec .rxSingle { s with q := q, rxFrame := some f } = _ from e]; rfl, ?_⟩
      rw [hd, Nat.zero_add]
      subst hs; exact hk
  · rcases rxAccept_cases (kind := .start) (off := 0) (done := rxBegin n)
      (s := { s with q := q, rxFrame := some f }) with ⟨hl, e⟩ | ⟨hl, e⟩ <;> rw [hd] at hl
    · exact .inr ⟨.inl (by omega), by rw [hc]; exact e⟩
    · have hk := Decoded.start (q := q) (rest := s.turns.tail) (f := f) n hc h0 (by omega)
      refine .inl ⟨_, by rw [hc, show exec (.rxStart n) { s with q := q, rxFrame := some f } = _ from e]; rfl, ?_⟩
      rw [hd, Nat.zero_add]
      subst hs; exact hk
  · rcases rxAccept_cases (kind := .cont) (off := s.rxLen.toNat) (done := rxContinue)
      (s := { s with q := q, rxFrame := some f }) with ⟨hl, e⟩ | ⟨hl, e⟩ <;> rw [hd] at hl
    · exact .inr ⟨.inr ⟨h1, ⟨i, hi⟩, hl⟩, by rw [hc]; exact e⟩
    · by_cases hn : s.iCont.toNat = s.nCont.toNat
      · have hk := Decoded.last (q := q) (rest := s.turns.tail) (f := f) i hc hi h1 hl hn
        refine .inl ⟨_, by rw [hc, show exec (.rxCont i) { s with q := q, rxFrame := some f } = _ from e]; rfl, ?_⟩
        rw [rxContinue_last (by exact hn)]
        subst hs; exact hk
      · have hk := Decoded.cont (q := q) (rest := s.turns.tail) (f := f) i hc hi h1 hl hn
        refine .inl ⟨_, by rw [hc, show exec (.rxCont i) { s with q := q, rxFrame := some f } = _ from e]; rfl, ?_⟩
        rw [rxContinue_more (by exact hn)]
        subst hs; exact hk

/-- A state whose wires carry nothing, as one with the wires emptied. -/
theorem wiresClear_eta {s : State} (hw : s.wiresClear) :
    ∃ u : State, s = { u with rxFrame := none, txFrame := none, txRet := none } := by
  obtain ⟨w1, w2, w3⟩ := hw
  refine ⟨s, ?_⟩
  cases s
  simp_all

/-- A run of one step more on any machine, where the step goes on. -/
theorem coreRun_succ (M : Host.Core) {n : Nat} {s t : M.State} (h : M.step s = .next t) : M.run (n + 1) s = M.run n t := by
  simp only [Host.Core.run, h]

/-- A run of one step more, where the step goes on. -/
theorem run_succ {n : Nat} {s t : State} (h : step s = .next t) :
    Host.Core.run Sys2Proof.core (n + 1) s = Host.Core.run Sys2Proof.core n t :=
  coreRun_succ Sys2Proof.core h

/-- An operation that is not FLT.MATCH runs alone in its step. -/
theorem runInstr_alone {i : Instr} {s : State} (h : ∀ e d, i ≠ .fltMatch e d) : runInstr i s = exec i s := by
  unfold runInstr
  cases exec i s with
  | next s' =>
    have : follow i s' = none := by
      unfold follow
      split
      · exact absurd rfl (h _ _)
      · rfl
    simp only [this]
  | fault r => rfl
  | refused r => rfl

/-- The end of a step in a state whose wires carry nothing. -/
theorem endTurn_clear {s : State} (hw : s.wiresClear) : endTurn s = { s with turns := s.turns.tail } := by
  obtain ⟨w1, w2, w3⟩ := hw
  simp only [endTurn, w1, w2, w3]

/-- The operation the TX engine's move runs, as one frame sent (R100). -/
theorem exec_txClass (s : State) :
    (txFinal s = true ∧ ∃ kind ctl, exec (txClass s) s = txSend kind ctl (txRem s) txFinish s) ∨
    (txFinal s = false ∧ ∃ kind ctl, exec (txClass s) s = txSend kind ctl s.txNb.toNat txAdvance s) := by
  unfold txClass
  cases hf : txFinal s
  · refine .inr ⟨rfl, ?_⟩
    by_cases hz : s.txI = 0#8
    · exact ⟨_, _, by simp only [hz, if_true]; rfl⟩
    · exact ⟨_, _, by simp only [hz, if_false]; rfl⟩
  · refine .inl ⟨rfl, ?_⟩
    by_cases hz : s.txI = 0#8
    · exact ⟨_, _, by simp only [hz, if_true]; rfl⟩
    · exact ⟨_, _, by simp only [hz, if_false]; rfl⟩

/-- What a TX engine's move does (R100 to R104). -/
inductive TxMoved (s : State) (a : Option Answer) (rest : List Turn) : State → Prop where
  | still (why : s.txBusy = false ∨ a = none) : TxMoved s a rest { s with turns := rest }
  | fail (busy : s.txBusy = true) (answer : a = some .err) (m : CanMsg) :
      TxMoved s a rest { s with
        txCount := s.txOff, txRes := .devWriteErr, txBusy := false, devLog := s.devLog ++ [.write m .err], turns := rest }
  | advance (busy : s.txBusy = true) (answer : a = some .ok) (more : s.txNb.toNat < s.txN.toNat - s.txOff.toNat) (m : CanMsg)
      (kind : TraceKind) (f : Frame) :
      TxMoved s a rest { s with
        txOff := s.txOff + s.txNb.setWidth 16, txI := s.txI + 1#8, devLog := s.devLog ++ [.write m .ok],
        trace := traced s .tx kind f, turns := rest }
  | finish (busy : s.txBusy = true) (answer : a = some .ok) (last : s.txN.toNat - s.txOff.toNat ≤ s.txNb.toNat) (m : CanMsg)
      (kind : TraceKind) (f : Frame) :
      TxMoved s a rest { s with
        txCount := s.txN, txRes := .ok, txBusy := false, devLog := s.devLog ++ [.write m .ok],
        trace := traced s .tx kind f, turns := rest }

/-- Everything a TX engine's move can do. -/
theorem step_tx {s : State} {a : Option Answer} {rest : List Turn} (ht : s.turns = .tx a :: rest) (hw : s.wiresClear) :
    (∃ t, step s = .next t ∧ TxMoved s a rest t) ∨
    (s.txBusy = true ∧ memRead .tx s.txOff.toNat (min (txRem s) s.txNb.toNat) s.mem = none ∧
      step s = .fault .txFrameUnreadable) := by
  have hw2 := hw.2.1
  have hrest : s.turns.tail = rest := by rw [ht]; rfl
  obtain ⟨v, hv⟩ := wiresClear_eta hw
  by_cases hb : s.txBusy = true
  · have hstep : step s = mapNext endTurn (exec (txClass s) s) := by
      simp only [step, perform, select, ht, selectTx, hb, hw2, if_true]
      rw [runInstr_alone (fun e d => by unfold txClass; split <;> split <;> simp)]
    have ha : writeAnswer s = a := by simp only [writeAnswer, ht]
    have hfin := txFinal_iff s
    rcases exec_txClass s with ⟨hf, kind, ctl, he⟩ | ⟨hf, kind, ctl, he⟩
    all_goals rw [hstep, he]
    · have hmin : min (txRem s) s.txNb.toNat = txRem s := Nat.min_eq_left (hfin.1 hf)
      rw [hmin]
      rcases txSend_cases (kind := kind) (ctl := ctl) (n := txRem s) (done := txFinish) (s := s) with
        ⟨hm, e⟩ | ⟨bytes, hm, ⟨hn, e⟩ | ⟨hn, e⟩ | ⟨hn, e⟩⟩ <;> rw [e, ha.symm]
      · exact .inr ⟨hb, hm, rfl⟩
      · refine .inl ⟨_, rfl, ?_⟩
        have hk := TxMoved.still (s := s) (rest := rest) (.inr hn)
        subst hrest hv
        exact hk
      · refine .inl ⟨_, rfl, ?_⟩
        have hk := TxMoved.fail (s := s) (rest := rest) hb hn (frameMsg (ctl :: bytes) s)
        subst hrest hv
        exact hk
      · refine .inl ⟨_, rfl, ?_⟩
        have hk := TxMoved.finish (s := s) (rest := rest) hb hn (hfin.1 hf) (frameMsg (ctl :: bytes) s) kind (ctl :: bytes)
        subst hrest hv
        exact hk
    · have hlt : s.txNb.toNat < s.txN.toNat - s.txOff.toNat := by
        by_contra hc
        rw [hfin.2 (by omega)] at hf
        cases hf
      have hmin : min (txRem s) s.txNb.toNat = s.txNb.toNat := Nat.min_eq_right hlt.le
      rw [hmin]
      rcases txSend_cases (kind := kind) (ctl := ctl) (n := s.txNb.toNat) (done := txAdvance) (s := s) with
        ⟨hm, e⟩ | ⟨bytes, hm, ⟨hn, e⟩ | ⟨hn, e⟩ | ⟨hn, e⟩⟩ <;> rw [e, ha.symm]
      · exact .inr ⟨hb, hm, rfl⟩
      · refine .inl ⟨_, rfl, ?_⟩
        have hk := TxMoved.still (s := s) (rest := rest) (.inr hn)
        subst hrest hv
        exact hk
      · refine .inl ⟨_, rfl, ?_⟩
        have hk := TxMoved.fail (s := s) (rest := rest) hb hn (frameMsg (ctl :: bytes) s)
        subst hrest hv
        exact hk
      · refine .inl ⟨_, rfl, ?_⟩
        have hk := TxMoved.advance (s := s) (rest := rest) hb hn hlt (frameMsg (ctl :: bytes) s) kind (ctl :: bytes)
        subst hrest hv
        exact hk
  · have hb' : s.txBusy = false := by simpa using hb
    refine .inl ⟨_, ?_, .still (.inl hb')⟩
    have hstep : step s = .next (endTurn s) := by
      simp only [step, perform, select, ht, selectTx, hb', Bool.false_eq_true, if_false, mapNext_next]
    rw [hstep, endTurn_clear hw, hrest]

/-- What an RX engine's move does (R137 to R143, R113 to R118). -/
inductive RxMoved (s : State) (a : Option ReadAnswer) (rest : List Turn) : State → Prop where
  | still (why : s.rxBusy = false ∨ (s.q = [] ∧ a = none)) : RxMoved s a rest { s with turns := rest }
  | fail (busy : s.rxBusy = true) (empty : s.q = []) (r : Res) (e : DevEvent)
      (why : (a = some .err ∧ r = .devReadErr) ∨ (a = some (.batch []) ∧ r = .emptyBatch)) :
      RxMoved s a rest { s with
        rxState := .s0, rxLen := 0#16, rxRes := r, rxBusy := false, devLog := s.devLog ++ [e], turns := rest }
  | fetch (busy : s.rxBusy = true) (empty : s.q = []) (ms : List CanMsg) (answer : a = some (.batch ms)) (ok : batchOk ms = true) :
      RxMoved s a rest { s with q := ms, devLog := s.devLog ++ [.read (.batch ms)], turns := rest }
  | skip (busy : s.rxBusy = true) (m : CanMsg) (q : List CanMsg) (head : s.q = m :: q) (verdict : passes s m = false) :
      RxMoved s a rest { s with q := q, turns := rest }
  | deliver (busy : s.rxBusy = true) (m : CanMsg) (q : List CanMsg) (head : s.q = m :: q) (verdict : passes s m = true)
      (t : State) (decoded : Decoded s q rest m.data t) : RxMoved s a rest t

/-- Everything an RX engine's move can do. -/
theorem step_rx {s : State} {a : Option ReadAnswer} {rest : List Turn} (ht : s.turns = .rx a :: rest) (hw : s.wiresClear) :
    (∃ t, step s = .next t ∧ RxMoved s a rest t) ∨
    (∃ ms, a = some (.batch ms) ∧ batchOk ms = false ∧ step s = .refused .deviceContract) ∨
    (∃ m q, s.rxBusy = true ∧ s.q = m :: q ∧ passes s m = true ∧ (896 < (payload m.data).length ∨
      (s.rxState = .s1 ∧ (∃ i, contCtl i = s.iCont) ∧ 896 < s.rxLen.toNat + (payload m.data).length)) ∧
      step s = .fault .rxBufOverflow) := by
  have hrest : s.turns.tail = rest := by rw [ht]; rfl
  obtain ⟨v, hv⟩ := wiresClear_eta hw
  by_cases hb : s.rxBusy = true
  · have hw1 := hw.1
    have ha : readAnswer s = a := by simp only [readAnswer, ht]
    cases hq : s.q with
    | nil =>
      have hstep : step s = mapNext endTurn (execDevqFetch s) := by
        simp only [step, perform, select, ht, selectRx, hb, hw1, hq, if_true]
        rw [runInstr_alone (by simp)]
        rfl
      rw [hstep]
      rcases execDevqFetch_cases s with ⟨hn, e⟩ | ⟨hn, e⟩ | ⟨ms, hn, hk, e⟩ | ⟨hn, e⟩ | ⟨ms, hn, hk, hne, e⟩ <;>
        rw [e] <;> rw [ha] at hn
      · refine .inl ⟨_, rfl, ?_⟩
        have hk := RxMoved.still (s := s) (rest := rest) (.inr ⟨hq, hn⟩)
        subst hrest hv
        exact hk
      · refine .inl ⟨_, rfl, ?_⟩
        have hk := RxMoved.fail (s := s) (rest := rest) hb hq .devReadErr (.read .err) (.inl ⟨hn, rfl⟩)
        subst hrest hv
        exact hk
      · exact .inr (.inl ⟨ms, hn, hk, rfl⟩)
      · refine .inl ⟨_, rfl, ?_⟩
        have hk := RxMoved.fail (s := s) (rest := rest) hb hq .emptyBatch (.read (.batch [])) (.inr ⟨hn, rfl⟩)
        subst hrest hv
        exact hk
      · refine .inl ⟨_, rfl, ?_⟩
        have hk := RxMoved.fetch (s := s) (rest := rest) hb hq ms hn hk
        subst hrest hv
        exact hk
    | cons m q =>
      have hstep : step s = mapNext endTurn (runInstr (fltClass s m) s) := by
        simp only [step, perform, select, ht, selectRx, hb, hw1, hq, if_true]
      rw [hstep]
      cases hp : passes s m
      · rw [runInstr_skip hp, hq, List.tail_cons]
        refine .inl ⟨_, rfl, ?_⟩
        have hk := RxMoved.skip (s := s) (rest := rest) (a := a) hb m q hq hp
        subst hrest hv
        exact hk
      · rw [runInstr_match hq hp]
        rcases exec_rxClass (q := q) (f := m.data) (show s.turns.tail = rest by rw [ht]; rfl) hw with ⟨t, h, hd⟩ | ⟨h, e⟩
        · exact .inl ⟨t, h, .deliver hb m q hq hp t hd⟩
        · exact .inr (.inr ⟨m, q, hb, rfl, hp, h, by rw [e]; rfl⟩)
  · have hb' : s.rxBusy = false := by simpa using hb
    refine .inl ⟨_, ?_, .still (.inl hb')⟩
    have hstep : step s = .next (endTurn s) := by
      simp only [step, perform, select, ht, selectRx, hb', Bool.false_eq_true, if_false, mapNext_next]
    rw [hstep, endTurn_clear hw, hrest]

/-- What a CTL engine's move does (R134, R136). -/
inductive CtlMoved (s : State) (a : Option Answer) (rest : List Turn) : State → Prop where
  | still (why : s.ctlBusy = false ∨ a = none) : CtlMoved s a rest { s with turns := rest }
  | openFail (busy : s.ctlBusy = true) (closed : s.isOpen = false) (answer : a = some .err) :
      CtlMoved s a rest { s with ctlBusy := false, ctlRes := .openFail, devLog := s.devLog ++ [.open_ .err], turns := rest }
  | opened (busy : s.ctlBusy = true) (closed : s.isOpen = false) (answer : a = some .ok) :
      CtlMoved s a rest { s with
        q := [], isOpen := true, ctlBusy := false, ctlRes := .ok, devLog := s.devLog ++ [.open_ .ok], turns := rest }
  | closed (busy : s.ctlBusy = true) (session : s.isOpen = true) (d : Answer) (answer : a = some d) (r : Res)
      (res : (d = .ok ∧ r = .ok) ∨ (d = .err ∧ r = .closeFail)) :
      CtlMoved s a rest { s with
        q := [], isOpen := false, ctlBusy := false, ctlRes := r, devLog := s.devLog ++ [.close d], turns := rest }

/-- Everything a CTL engine's move can do; it always goes on. -/
theorem step_ctl {s : State} {a : Option Answer} {rest : List Turn} (ht : s.turns = .ctl a :: rest) (hw : s.wiresClear) :
    ∃ t, step s = .next t ∧ CtlMoved s a rest t := by
  have hrest : s.turns.tail = rest := by rw [ht]; rfl
  obtain ⟨v, hv⟩ := wiresClear_eta hw
  have ha : ctlAnswer s = a := by simp only [ctlAnswer, ht]
  have hm : ctlEngineMoves s = true := by simp only [ctlEngineMoves, ht]
  by_cases hb : s.ctlBusy = true
  · cases ho : s.isOpen
    · have hstep : step s = .next (endTurn (openEngine s)) := by
        simp only [step, perform, select, ht, selectCtl, hb, ho, Bool.false_eq_true, if_true, if_false]
        rw [runInstr_alone (by simp)]
        simp only [exec, execCmdOpen, hm, if_true, mapNext_next]
      rcases openEngine_cases s with ⟨hn, e⟩ | ⟨hn, e⟩ | ⟨hn, e⟩ <;> rw [ha] at hn <;>
        refine ⟨_, hstep, ?_⟩ <;> rw [e]
      · have hk := CtlMoved.still (s := s) (rest := rest) (.inr hn)
        subst hrest hv
        exact hk
      · have hk := CtlMoved.openFail (s := s) (rest := rest) hb ho hn
        subst hrest hv
        exact hk
      · have hk := CtlMoved.opened (s := s) (rest := rest) hb ho hn
        subst hrest hv
        exact hk
    · have hstep : step s = .next (endTurn (closeEngine s)) := by
        simp only [step, perform, select, ht, selectCtl, hb, ho, if_true]
        rw [runInstr_alone (by simp)]
        simp only [exec, execCmdClose, hm, if_true, mapNext_next]
      rcases closeEngine_cases s with ⟨hn, e⟩ | ⟨d, hn, e⟩ <;> rw [ha] at hn <;>
        refine ⟨_, hstep, ?_⟩ <;> rw [e]
      · have hk := CtlMoved.still (s := s) (rest := rest) (.inr hn)
        subst hrest hv
        exact hk
      · cases d with
        | ok =>
          have hk := CtlMoved.closed (s := s) (rest := rest) hb ho .ok hn .ok (.inl ⟨rfl, rfl⟩)
          subst hrest hv
          exact hk
        | err =>
          have hk := CtlMoved.closed (s := s) (rest := rest) hb ho .err hn .closeFail (.inr ⟨rfl, rfl⟩)
          subst hrest hv
          exact hk
  · have hb' : s.ctlBusy = false := by simpa using hb
    refine ⟨_, ?_, .still (.inl hb')⟩
    have hstep : step s = .next (endTurn s) := by
      simp only [step, perform, select, ht, selectCtl, hb', Bool.false_eq_true, if_false, mapNext_next]
    rw [hstep, endTurn_clear hw, hrest]

/-- A host move that goes on: an access at a block offset, or a bus address outside the block. -/
theorem step_host {s t : State} {u : Turn} {rest : List Turn} (ht : s.turns = u :: rest) (hu : u.isHost = true)
    (h : step s = .next t) :
    t = endTurn s ∨ ∃ off acc s', hostAccess off acc s = .next s' ∧ t = endTurn s' ∧ ctlEngineMoves s = false := by
  have hm : ctlEngineMoves s = false := by
    simp only [ctlEngineMoves, ht]
    cases u <;> simp_all [Turn.isHost]
  rcases step_next h with ⟨_, rfl⟩ | ⟨i, s', hs, _, _⟩ | ⟨off, acc, s', _, ha, rfl⟩ | ⟨hs, _⟩
  · exact .inl rfl
  · simp only [select, ht] at hs
    cases u <;> simp_all [Turn.isHost, selectBus]
    split at hs <;> cases hs
  · exact .inr ⟨off, acc, s', ha, rfl, hm⟩
  · simp only [select, ht] at hs
    cases u <;> simp_all [Turn.isHost, selectBus]
    split at hs <;> cases hs

end Sys2Proof.Machine
end

