-- ==== Sys2Proof/Tests/Slice0.lean ====
section
/-! SUPPORT. Tests: ill-formed instructions refused, words of every constructor decoded, one step of every instruction against
the vectors of spec/95_test_vectors.md (named V-… in each comment), and a witness for the hypotheses of every obligation. -/

namespace Sys2Proof.Tests

open Sys2Proof.Machine

/-! ## WellFormed -/

theorem test_wf_reserved : (Instr.cmdReserved 0x10#8).wf = false ∧ (Instr.cmdReserved 0x03#8).wf = true := by decide

theorem test_wf_start : (Instr.txStart 0#7).wf = false ∧ (Instr.txStart 1#7).wf = true := by decide

theorem test_wf_cont_low : (Instr.txCont 0#7).wf = false ∧ (Instr.txCont 1#7).wf = true := by decide

theorem test_wf_cont_high : (Instr.txCont 127#7).wf = false ∧ (Instr.txCont 126#7).wf = true := by decide

theorem test_wf_contLast : (Instr.txContLast 0#7).wf = false ∧ (Instr.txContLast 127#7).wf = true := by decide

theorem test_wf_malformed : (Instr.rxMalformed 0#7).wf = false ∧ (Instr.rxMalformed 1#7).wf = true := by decide

theorem test_wf_rxCont : (Instr.rxCont 0#7).wf = false ∧ (Instr.rxCont 127#7).wf = true := by decide

/-! ## Decode: words written from 30_encoding.md R72 to R84 and the vectors V-D-1 to V-D-14, V-F-1 to V-F-6, V-W-7 -/

/-- What the words below are compared with: the filter std 0x321, ICONT as given. -/
def ctx (iCont : Byte) (final : Bool) : DecodeCtx := ⟨iCont, false, 0x321#32, final⟩

/-- A decode's answer, none where it refuses. -/
def dec (iCont : Byte) (final : Bool) (w : Encoded) : Option Instr := (decode (ctx iCont final) w).toOption

/-- R83: codes 0x01, 0x02, 0x10, 0x20; R22: bits 31:8 ignored; R84: 0x00 and 0xFF reserved. -/
theorem test_decode_cmd :
    dec 1#8 false (.cmd 0x00000001#32) = some .cmdOpen ∧ dec 1#8 false (.cmd 0xABCDEF02#32) = some .cmdClose ∧
    dec 1#8 false (.cmd 0x00000010#32) = some .cmdWrite ∧ dec 1#8 false (.cmd 0x00000020#32) = some .cmdRead ∧
    dec 1#8 false (.cmd 0x00000100#32) = some (.cmdReserved 0x00#8) ∧
    dec 1#8 false (.cmd 0x000000FF#32) = some (.cmdReserved 0xFF#8) := by decide

/-- V-W-2, V-W-7, V-W-8: control bytes 00, 82, 01, 7E, 02, 7F. -/
theorem test_decode_segTx :
    dec 1#8 true (.segTx 0b00000000#8) = some .txSingle ∧ dec 1#8 false (.segTx 0b10000010#8) = some (.txStart 2#7) ∧
    dec 1#8 false (.segTx 0b00000001#8) = some (.txCont 1#7) ∧ dec 1#8 false (.segTx 0b01111110#8) = some (.txCont 126#7) ∧
    dec 1#8 true (.segTx 0b00000010#8) = some (.txContLast 2#7) ∧
    dec 1#8 true (.segTx 0b01111111#8) = some (.txContLast 127#7) := by decide

/-- R88: 0x80 is never transmitted; R101: index 127 is the last frame's. -/
theorem test_decode_segTx_refused :
    decode (ctx 1#8 false) (.segTx 0x80#8) = .error .startCountZero ∧
    decode (ctx 1#8 false) (.segTx 0x7F#8) = .error .fullContIndex127 ∧
    decode (ctx 1#8 true) (.segTx 0x81#8) = .error .startWhenFinal ∧
    decode (ctx 1#8 false) (.segTx 0x00#8) = .error .singleNotFinal ∧
    decode (ctx 1#8 false) (.segRx 0x001#10) = .error .ctlWithoutByte := by
  refine ⟨?_, ?_, ?_, ?_, ?_⟩ <;> rfl

/-- V-D-1 to V-D-7. -/
theorem test_decode_segRx_s0 :
    dec 0#8 false (.segRx 0b0000000000#10) = some (.rxZeroLen .s0) ∧ dec 0#8 false (.segRx 0b0100000000#10) = some .rxSingle ∧
    dec 0#8 false (.segRx 0b0100000001#10) = some (.rxMalformed 1#7) ∧
    dec 0#8 false (.segRx 0b0101111111#10) = some (.rxMalformed 127#7) ∧
    dec 0#8 false (.segRx 0b0110000000#10) = some (.rxStart 0#7) ∧
    dec 0#8 false (.segRx 0b0111111111#10) = some (.rxStart 127#7) := by decide

/-- V-D-2 and V-D-8 to V-D-14. -/
theorem test_decode_segRx_s1 :
    dec 2#8 false (.segRx 0b1000000000#10) = some (.rxZeroLen .s1) ∧
    dec 1#8 false (.segRx 0b1100000001#10) = some (.rxCont 1#7) ∧
    dec 1#8 false (.segRx 0b1100000010#10) = some (.rxOutOfSeq 0x02#8) ∧
    dec 3#8 false (.segRx 0b1100000010#10) = some (.rxOutOfSeq 0x02#8) ∧
    dec 1#8 false (.segRx 0b1100000000#10) = some (.rxOutOfSeq 0x00#8) ∧
    dec 1#8 false (.segRx 0b1110000001#10) = some (.rxOutOfSeq 0x81#8) ∧
    dec 128#8 false (.segRx 0b1101111111#10) = some (.rxOutOfSeq 0x7F#8) ∧
    dec 128#8 false (.segRx 0b1110000000#10) = some (.rxOutOfSeq 0x80#8) := by decide

/-- V-F-2 to V-F-6: bit 33 status, bit 32 ext, bits 31:0 id. -/
theorem test_decode_canf :
    dec 1#8 false (.canf 0x200000321#34) = some (.fltStatus false 0x321#32) ∧
    dec 1#8 false (.canf 0x100000321#34) = some (.fltExtMismatch true 0x321#32) ∧
    dec 1#8 false (.canf 0x000000320#34) = some (.fltIdMismatch false 0x320#32) ∧
    dec 1#8 false (.canf 0x080000321#34) = some (.fltIdMismatch false 0x80000321#32) ∧
    dec 1#8 false (.canf 0x000000321#34) = some (.fltMatch false 0x321#32) := by decide

/-- R94: the two operations without bits. -/
theorem test_decode_internal :
    dec 1#8 false .devq = some .devqFetch ∧ dec 1#8 false .cantx = some .cantxFrame := by decide

/-- Words numbered as spec/opcode_table.json numbers them. -/
theorem test_decodeTableWord :
    decodeTableWord 8 0x10 = some .cmdWrite ∧ decodeTableWord 8 0x83 = some (.txStart 3#7) ∧
    decodeTableWord 16 0x17F = some (.rxMalformed 127#7) ∧ decodeTableWord 16 0x305 = some (.rxCont 5#7) ∧
    decodeTableWord 16 0x001 = none ∧ decodeTableWord 40 0x200000000 = some (.fltStatus false 0#32) := by decide

/-! ## One step of each instruction -/

/-- A reading of the next state, none where the step stops. -/
def after {α : Type} (f : State → α) (o : Out) : Option α :=
  match o with
  | .next s => some (f s)
  | _ => none

/-- The fault a step stops with. -/
def faultOf (o : Out) : Option Fault :=
  match o with
  | .fault r => some r
  | _ => none

/-- Reset, with these moves to come. -/
def closedS (ts : List Turn) : State := { State.reset with turns := ts }

/-- Open after a CTL_RES of OK, the receive filter std 0x321, with these moves to come. -/
def openS (ts : List Turn) : State :=
  { State.reset with isOpen := true, ctlRes := .ok, rxId := 0x321#32, txId := 0x123#32, turns := ts }

/-- The host's write of a command code. -/
def cmdTurn (v : Word) : Turn := .host 0x000#12 (.w32 v)

/-- The message 01, 02, … of `n` bytes in TXBUF. -/
def msg (n : Nat) : Memory := Memory.writeBytes [] 0x400 ((List.range n).map (fun k => BitVec.ofNat 8 (k + 1)))

/-- A WRITE of the message of `n` bytes, SIZE 8, with `i` frames accepted, and the device's answer to the next. -/
def writing (n i : Nat) (a : Answer) : State :=
  { openS [.tx (some a)] with
    txBusy := true, txN := BitVec.ofNat 16 n, txNb := 7#3, txOff := BitVec.ofNat 16 (7 * i), txI := BitVec.ofNat 8 i, mem := msg n }

/-- A READ in state `st`, ICONT `i`, NCONT `n`, RX_LEN 7, and a matching message with this data field at the head of Q. -/
def reading (st : RxState) (i : Byte) (n : BitVec 7) (f : Frame) : State :=
  { openS [.rx none] with
    rxBusy := true, rxState := st, iCont := i, nCont := n, rxLen := 7#16, traceEn := true
    q := [⟨0x321#32, false, false, ⟨false, false, false⟩, f⟩] }

/-- A READ with one message at the head of Q. -/
def filtering (status ext : Bool) (id : Word) : State :=
  { openS [.rx none] with rxBusy := true, q := [⟨id, ext, status, ⟨false, true, false⟩, [0x00#8, 0x11#8]⟩] }

/-- V-C-1: the engine step. -/
theorem test_open_ok :
    after statusWord (step { closedS [.ctl (some .ok)] with ctlBusy := true }) = some 0x00000101#32 := by decide

/-- V-C-3. -/
theorem test_open_while_open : after statusWord (step (openS [cmdTurn 0x01#32])) = some 0x00000111#32 := by decide

/-- V-C-4. -/
theorem test_close_closed : after statusWord (step (closedS [cmdTurn 0x02#32])) = some 0x00000200#32 := by decide

/-- V-C-6. -/
theorem test_close_err :
    after statusWord (step { openS [.ctl (some .err)] with ctlBusy := true, ctlRes := .none }) = some 0x00000800#32 := by decide

/-- V-W-9: 897 bytes at SIZE 8. -/
theorem test_write_tooLong :
    after (fun s => (s.txRes, s.txCount)) (step { openS [cmdTurn 0x10#32] with txLen := 897#16 }) = some (.tooLong, 0#16) := by
  decide

/-- V-W-25: TXBUF[2] unwritten. -/
theorem test_write_unwritten :
    faultOf (step { openS [cmdTurn 0x10#32] with txLen := 3#16, mem := msg 2 }) = some .unwrittenMessage := by decide

/-- V-C-10. -/
theorem test_read_closed :
    after (fun s => (statusWord s, s.rxLen)) (step { closedS [cmdTurn 0x20#32] with rxLen := 5#16 }) = some (0x00020000#32, 0#16) := by
  decide

/-- R112: RX_LEN 0 and S0 at issue. -/
theorem test_read_issue :
    after (fun s => (statusWord s, s.rxLen)) (step { openS [cmdTurn 0x20#32] with rxLen := 5#16 }) = some (0x00000109#32, 0#16) := by
  decide

/-- V-H-10. -/
theorem test_reserved : after statusWord (step (openS [cmdTurn 0x03#32])) = some 0x00000111#32 := by decide

/-- V-W-2. -/
theorem test_txSingle :
    after (fun s => (s.devLog, s.txCount, s.txRes)) (step (writing 3 0 .ok)) =
      some ([.write ⟨0x123#32, false, false, ⟨false, false, false⟩, [0x00#8, 1#8, 2#8, 3#8]⟩ .ok], 3#16, .ok) := by decide

/-- V-W-23. -/
theorem test_txSingle_rejected :
    after (fun s => (s.txCount, s.txRes, s.txBusy)) (step (writing 0 0 .err)) = some (0#16, .devWriteErr, false) := by decide

/-- V-W-7, the first frame. -/
theorem test_txStart :
    after (fun s => (s.devLog, s.txOff, s.txI)) (step (writing 15 0 .ok)) =
      some ([.write ⟨0x123#32, false, false, ⟨false, false, false⟩, [0x82#8, 1#8, 2#8, 3#8, 4#8, 5#8, 6#8, 7#8]⟩ .ok],
        7#16, 1#8) := by decide

/-- V-W-20. -/
theorem test_txStart_rejected :
    after (fun s => (s.txCount, s.txRes, s.txBusy)) (step (writing 15 0 .err)) = some (0#16, .devWriteErr, false) := by decide

/-- V-W-7, the second frame, with tracing. -/
theorem test_txCont :
    after (fun s => (s.trace, s.txOff)) (step { writing 15 1 .ok with traceEn := true }) =
      some ([⟨.tx, .cont, [0x01#8, 8#8, 9#8, 10#8, 11#8, 12#8, 13#8, 14#8]⟩], 14#16) := by decide

/-- V-W-21. -/
theorem test_txCont_rejected :
    after (fun s => (s.txCount, s.txRes, s.trace)) (step { writing 15 1 .err with traceEn := true }) =
      some (7#16, .devWriteErr, []) := by decide

/-- V-W-7, the last frame. -/
theorem test_txContLast :
    after (fun s => (s.devLog, s.txCount, s.txRes)) (step (writing 15 2 .ok)) =
      some ([.write ⟨0x123#32, false, false, ⟨false, false, false⟩, [0x02#8, 15#8]⟩ .ok], 15#16, .ok) := by decide

/-- V-W-22. -/
theorem test_txContLast_rejected :
    after (fun s => (s.txCount, s.txRes)) (step (writing 15 2 .err)) = some (14#16, .devWriteErr) := by decide

/-- V-R-6: the empty frame in S1. -/
theorem test_rxZeroLen :
    after (fun s => (rxFsmWord s, s.errCnt, s.rxLen, s.trace)) (step (reading .s1 1#8 2#7 [])) =
      some (0x00020100#32, 1#32, 0#16, [⟨.rx, .unknown, []⟩]) := by decide

/-- V-R-2. -/
theorem test_rxSingle :
    after (fun s => (s.rxRes, s.rxLen, Memory.readBytes s.mem 0x800 3)) (step (reading .s0 0#8 0#7 [0x00#8, 0x11#8, 0x22#8, 0x33#8])) =
      some (.ok, 3#16, some [0x11#8, 0x22#8, 0x33#8]) := by decide

/-- V-R-4: RX_LEN is not written. -/
theorem test_rxMalformed :
    after (fun s => (s.rxState, s.errCnt, s.rxLen, s.rxBusy)) (step (reading .s0 0#8 0#7 [0x03#8, 0xAA#8])) =
      some (.s0, 1#32, 7#16, true) := by decide

/-- ERRCNT wraps (note to the READ vectors). -/
theorem test_rxMalformed_wrap :
    after State.errCnt (step { reading .s0 0#8 0#7 [0x01#8] with errCnt := 0xFFFFFFFF#32 }) = some 0#32 := by decide

/-- V-R-7. -/
theorem test_rxStart :
    after (fun s => (rxFsmWord s, s.rxLen))
        (step (reading .s0 0#8 0#7 [0x82#8, 0xA0#8, 0xA1#8, 0xA2#8, 0xA3#8, 0xA4#8, 0xA5#8, 0xA6#8])) =
      some (0x00020101#32, 7#16) := by decide

/-- V-R-16: a start with count 0. -/
theorem test_rxStart_zero :
    after (fun s => (rxFsmWord s, s.rxLen)) (step (reading .s0 5#8 3#7 [0x80#8, 0xEE#8])) = some (0x00000101#32, 1#16) := by decide

/-- V-R-14: the continuation that ends the message, appended at 7. -/
theorem test_rxCont_last :
    after (fun s => (rxFsmWord s, s.rxRes, s.rxLen, Memory.readBytes s.mem 0x807 3))
        (step (reading .s1 1#8 1#7 [0x01#8, 0x08#8, 0x09#8, 0x0A#8])) =
      some (0x00010100#32, .ok, 10#16, some [0x08#8, 0x09#8, 0x0A#8]) := by decide

/-- V-R-16: continuation 127 of a count-0 start leaves ICONT 128. -/
theorem test_rxCont_127 :
    after (fun s => (rxFsmWord s, s.rxBusy)) (step (reading .s1 127#8 0#7 [0x7F#8, 0x7F#8])) = some (0x00008001#32, true) := by decide

/-- V-R-8. -/
theorem test_rxOutOfSeq :
    after (fun s => (rxFsmWord s, s.errCnt, s.rxLen)) (step (reading .s1 1#8 2#7 [0x03#8, 0xCC#8])) =
      some (0x00020100#32, 1#32, 0#16) := by decide

/-- V-R-12: a start in S1 is discarded and sets nothing. -/
theorem test_rxOutOfSeq_start :
    after (fun s => (rxFsmWord s, s.errCnt, s.mem)) (step (reading .s1 1#8 2#7 [0x83#8, 0x02#8])) =
      some (0x00020100#32, 1#32, []) := by decide

/-- V-F-1, V-F-3, V-F-4, V-F-5: skipped. -/
theorem test_fltStatus : step (filtering true false 0x321#32) = .next { filtering true false 0x321#32 with q := [], turns := [] } := by
  rfl

theorem test_fltExtMismatch :
    step (filtering false true 0x321#32) = .next { filtering false true 0x321#32 with q := [], turns := [] } := by rfl

theorem test_fltIdMismatch :
    step (filtering false false 0x80000321#32) = .next { filtering false false 0x80000321#32 with q := [], turns := [] } := by rfl

/-- V-F-6: the frame 00 11 is decoded in the same step. -/
theorem test_fltMatch :
    after (fun s => (s.rxRes, s.rxLen, s.q, Memory.read s.mem 0x800)) (step (filtering false false 0x321#32)) =
      some (.ok, 1#16, [], some 0x11#8) := by decide

/-- V-F-9, the fetch. -/
theorem test_devqFetch :
    after (fun s => (qLevelWord s, s.rxBusy))
        (step { filtering false false 0#32 with q := [], turns := [.rx (some (.batch (filtering false false 0x123#32).q))] }) =
      some (1#32, true) := by decide

/-- V-R-18. -/
theorem test_devqFetch_err :
    after (fun s => (rxFsmWord s, s.rxRes, s.rxLen, s.errCnt))
        (step { reading .s1 1#8 2#7 [] with q := [], turns := [.rx (some .err)] }) =
      some (0x00020100#32, .devReadErr, 0#16, 0#32) := by decide

/-- The transmit dispatch vector: ext 0x18DAF110 [01 08]. -/
theorem test_cantxFrame :
    after (fun s => (s.devLog, s.txRet))
        (exec .cantxFrame { openS [.tx (some .err)] with txId := 0x18DAF110#32, txExt := true, txFrame := some [0x01#8, 0x08#8] }) =
      some ([.write ⟨0x18DAF110#32, true, false, ⟨false, false, false⟩, [0x01#8, 0x08#8]⟩ .err], some .err) := by decide

/-! ## Host accesses -/

/-- V-H-4, V-H-6, V-H-8. -/
theorem test_host_writes :
    after cfgWord (hostAccess 0x008#12 (.w32 0xFFFFFFF8#32) (closedS [])) = some 0x00000308#32 ∧
    after cfgWord (hostAccess 0x008#12 (.w32 0x00000301#32) (closedS [])) = some 0x00000008#32 ∧
    after State.txLen (hostAccess 0x014#12 (.w32 0x00012345#32) (closedS [])) = some 0x2345#16 := by decide

/-- V-H-19. -/
theorem test_host_read_word :
    after State.busOut (hostAccess 0x400#12 .r32 { closedS [] with mem := msg 4 }) = some [.word 0x04030201#32] := by decide

/-- V-H-11 to V-H-18. -/
theorem test_host_faults :
    faultOf (hostAccess 0x030#12 .r32 (closedS [])) = some .reservedOffset ∧
    faultOf (hostAccess 0x004#12 .r8 (closedS [])) = some .badWidth ∧
    faultOf (hostAccess 0x018#12 (.w32 5#32) (closedS [])) = some .readOnly ∧
    faultOf (hostAccess 0x800#12 (.w8 1#8) (closedS [])) = some .readOnly ∧
    faultOf (hostAccess 0x402#12 .r32 { closedS [] with mem := msg 8 }) = some .badWidth ∧
    faultOf (hostAccess 0x400#12 .r8 (closedS [])) = some .unwrittenByte ∧
    faultOf (hostAccess 0x400#12 (.w8 0#8) (writing 3 0 .ok)) = some .txBufBusy ∧
    faultOf (hostAccess 0x800#12 .r8 (filtering true true 0#32)) = some .rxBufBusy := by decide

/-- R85: the code column of the table, as STATUS shows it in bits 11:8. -/
theorem test_result_codes :
    [Res.none, .ok, .notOpen, .openFail, .closeFail].map (fun r => statusWord { closedS [] with ctlRes := r }) =
      [0x000#32, 0x100#32, 0x200#32, 0x700#32, 0x800#32] := by decide

/-- V-H-21. -/
theorem test_reset_step :
    after (fun s => (statusWord s, s.errCnt, s.mem)) (step { openS [.reset] with cmdErr := true, errCnt := 5#32, mem := msg 3 }) =
      some (0#32, 0#32, []) := by decide

/-! ## Witnesses: for every obligation with hypotheses, states and operands that meet them, clause by clause -/

/-- A host write of `v` at CMD as the next move. -/
def hostS (v : Word) : State := closedS [cmdTurn v]

theorem witness_DecodeInvertsEncode :
    ((Instr.rxCont 127#7).wf = true ∧ (ctx 0x7F#8 false).fits (.rxCont 127#7) = true) ∧
    ((Instr.txCont 126#7).wf = true ∧ (ctx 1#8 false).fits (.txCont 126#7) = true) ∧
    ((Instr.txContLast 127#7).wf = true ∧ (ctx 1#8 true).fits (.txContLast 127#7) = true) ∧
    ((Instr.fltMatch false 0x321#32).wf = true ∧ (ctx 1#8 true).fits (.fltMatch false 0x321#32) = true) := by decide

theorem witness_EncodeInvertsDecode :
    decode (ctx 1#8 false) (.cmd 0xFFFFFF03#32) = .ok (.cmdReserved 0x03#8) ∧
    decode (ctx 128#8 false) (.segRx 0x380#10) = .ok (.rxOutOfSeq 0x80#8) := ⟨rfl, rfl⟩

theorem witness_DecodedIsWellFormed :
    (ctx 1#8 false).iCont ≠ 0#8 ∧ decode (ctx 1#8 false) (.segRx 0x301#10) = .ok (.rxCont 1#7) := ⟨by decide, rfl⟩

/-- Each row, at the ends of its range. -/
theorem witness_ReceiveClassTable :
    ((reading .s0 0#8 0#7 []).rxState = .s0 ∧ (0x00#8).toNat = 0x00) ∧
    ((reading .s0 0#8 0#7 []).rxState = .s0 ∧ 0x01 ≤ (0x01#8).toNat ∧ (0x7F#8).toNat ≤ 0x7F ∧ 0x80 ≤ (0x80#8).toNat) ∧
    ((reading .s1 127#8 0#7 []).rxState = .s1 ∧ (0x7F#8).toNat < 0x80 ∧ 0x7F#8 = (reading .s1 127#8 0#7 []).iCont) ∧
    ((reading .s1 128#8 0#7 []).rxState = .s1 ∧ 0x80 ≤ (0x80#8).toNat) ∧
    ((reading .s1 1#8 0#7 []).rxState = .s1 ∧ 0x02#8 ≠ (reading .s1 1#8 0#7 []).iCont) ∧
    ((reading .s1 1#8 0#7 []).rxState = .s1 ∧ 1 ≤ (reading .s1 1#8 0#7 []).iCont.toNat ∧ (0x00#8).toNat = 0x00) := by decide

theorem witness_FilterClassTable :
    (⟨0x321#32, false, true, ⟨false, false, true⟩, []⟩ : CanMsg).status = true ∧
    (⟨0x321#32, true, false, ⟨false, false, false⟩, []⟩ : CanMsg).ext ≠ (openS []).rxExt ∧
    (⟨0x80000321#32, false, false, ⟨false, false, false⟩, []⟩ : CanMsg).id ≠ (openS []).rxId ∧
    (⟨0x321#32, false, false, ⟨false, false, false⟩, []⟩ : CanMsg).id = (openS []).rxId := by decide

theorem witness_CommandCodeTable :
    (0x00000101#32).toNat % 256 = 0x01 ∧ (0xFFFFFF02#32).toNat % 256 = 0x02 ∧ (0x10#32).toNat % 256 = 0x10 ∧
    (0x20#32).toNat % 256 = 0x20 ∧
    ((0x100#32).toNat % 256 ≠ 0x01 ∧ (0x100#32).toNat % 256 ≠ 0x02 ∧ (0x100#32).toNat % 256 ≠ 0x10 ∧
      (0x100#32).toNat % 256 ≠ 0x20) := by decide

/-- The hypotheses of the transmit statements about the next move, for a WRITE of `n` bytes after `i` frames. -/
def txMove (n i : Nat) : Prop :=
  (writing n i .ok).turns = .tx (some .ok) :: [] ∧ (writing n i .ok).txBusy = true ∧ (writing n i .ok).txFrame = none ∧
  (writing n i .ok).txOff.toNat ≤ (writing n i .ok).txN.toNat

theorem witness_TransmitFrameSelection :
    (txMove 8 0 ∧ (writing 8 0 .ok).txN.toNat - (writing 8 0 .ok).txOff.toNat > (writing 8 0 .ok).txNb.toNat ∧
      (writing 8 0 .ok).txI.toNat = 0) ∧
    (txMove 15 1 ∧ (writing 15 1 .ok).txN.toNat - (writing 15 1 .ok).txOff.toNat > (writing 15 1 .ok).txNb.toNat ∧
      1 ≤ (writing 15 1 .ok).txI.toNat) ∧
    (txMove 7 0 ∧ (writing 7 0 .ok).txN.toNat - (writing 7 0 .ok).txOff.toNat ≤ (writing 7 0 .ok).txNb.toNat ∧
      (writing 7 0 .ok).txI.toNat = 0) ∧
    (txMove 14 1 ∧ (writing 14 1 .ok).txN.toNat - (writing 14 1 .ok).txOff.toNat ≤ (writing 14 1 .ok).txNb.toNat ∧
      1 ≤ (writing 14 1 .ok).txI.toNat) := by
  unfold txMove; decide

/-- A running WRITE that meets the invariant. -/
theorem witness_Inv_writing : Inv (writing 1 0 .ok) ∧ (writing 1 0 .ok).txBusy = true := by
  refine ⟨⟨by decide, ?_, by decide, by decide, by decide, by decide, by decide, by decide, by decide, by decide, ?_, ?_, by decide,
    by decide, by decide, by decide, by decide, ⟨rfl, rfl, rfl⟩⟩, rfl⟩
  · unfold inBuffers; decide
  · unfold written; decide
  · intro _
    refine ⟨by decide, by decide, by decide, by decide, by decide, ?_⟩
    unfold written; decide

/-- A READ in S1 of a count-0 start, ICONT `i`, nothing assembled, the queue empty. -/
def countZero (i : Byte) : State :=
  { openS [.rx none] with rxBusy := true, rxState := .s1, iCont := i, nCont := 0#7 }

theorem inv_countZero (i : Byte) (h : 1 ≤ i.toNat ∧ i.toNat ≤ 128) : Inv (countZero i) := by
  refine ⟨by show List.Pairwise _ _; exact List.Pairwise.nil, ?_, by show 2 ≤ (8#4).toNat ∧ (8#4).toNat ≤ 8; decide,
    Nat.zero_le _, ?_, h.2, fun _ => ⟨h.1, rfl⟩, fun _ => Nat.zero_le _, fun _ _ => rfl, Nat.zero_le _, ?_, ?_, fun _ => rfl, ?_, ?_, ?_,
    fun _ => rfl, ⟨rfl, rfl, rfl⟩⟩
  · intro c hc; cases hc
  · intro m hm; cases hm
  · intro k hk; exact absurd hk (Nat.not_lt_zero k)
  · intro hb; cases hb
  · intro hb; cases hb
  · intro hb; cases hb
  · intro hb; cases hb

theorem witness_SampleWordsDecode :
    (ctx 1#8 false).iCont = 1#8 ∧ (ctx 1#8 false).rxExt = false ∧ (ctx 1#8 false).rxId = 0x321#32 ∧
    (ctx 1#8 false).txFinal = false := by decide

theorem witness_StepRunsDecodedInstruction_host :
    (hostS 0xFFFFFF10#32).wiresClear ∧ (hostS 0xFFFFFF10#32).turns = .host 0x000#12 (.w32 0xFFFFFF10#32) :: [] ∧
    decode (ctx 0#8 false) (.cmd 0xFFFFFF10#32) = .ok .cmdWrite := ⟨⟨rfl, rfl, rfl⟩, rfl, rfl⟩

/-- The CTL engine with a command running, closed or open. -/
def ctlS (isOpen : Bool) (a : Option Answer) : State := { closedS [.ctl a] with ctlBusy := true, isOpen := isOpen }

theorem witness_StepRunsDecodedInstruction_engines :
    ((ctlS false (some .ok)).wiresClear ∧ (ctlS false (some .ok)).turns = .ctl (some .ok) :: [] ∧
      (ctlS false (some .ok)).ctlBusy = true ∧ (ctlS false (some .ok)).isOpen = false) ∧
    ((ctlS true none).wiresClear ∧ (ctlS true none).turns = .ctl none :: [] ∧ (ctlS true none).ctlBusy = true ∧
      (ctlS true none).isOpen = true) ∧
    ((writing 8 1 .ok).wiresClear ∧ (writing 8 1 .ok).turns = .tx (some .ok) :: [] ∧ (writing 8 1 .ok).txBusy = true) ∧
    ((countZero 1#8).wiresClear ∧ (countZero 1#8).turns = .rx none :: [] ∧ (countZero 1#8).rxBusy = true ∧
      (countZero 1#8).q = []) :=
  ⟨⟨⟨rfl, rfl, rfl⟩, rfl, rfl, rfl⟩, ⟨⟨rfl, rfl, rfl⟩, rfl, rfl, rfl⟩, ⟨⟨rfl, rfl, rfl⟩, rfl, rfl⟩,
    ⟨⟨rfl, rfl, rfl⟩, rfl, rfl, rfl⟩⟩

theorem witness_StepRunsDecodedInstruction_skip :
    (filtering true false 0x321#32).wiresClear ∧ (filtering true false 0x321#32).turns = .rx none :: [] ∧
    (filtering true false 0x321#32).rxBusy = true ∧
    (filtering true false 0x321#32).q = ⟨0x321#32, false, true, ⟨false, true, false⟩, [0x00#8, 0x11#8]⟩ :: [] ∧
    passes (filtering true false 0x321#32) ⟨0x321#32, false, true, ⟨false, true, false⟩, [0x00#8, 0x11#8]⟩ = false ∧
    decode (decodeCtx (filtering true false 0x321#32)) (.canf (msgFw ⟨0x321#32, false, true, ⟨false, true, false⟩, [0x00#8, 0x11#8]⟩)) =
      .ok (.fltStatus false 0x321#32) := ⟨⟨rfl, rfl, rfl⟩, rfl, rfl, rfl, rfl, rfl⟩

theorem witness_StepRunsDecodedInstruction_match :
    (reading .s1 1#8 1#7 [0x01#8]).wiresClear ∧ (reading .s1 1#8 1#7 [0x01#8]).turns = .rx none :: [] ∧
    (reading .s1 1#8 1#7 [0x01#8]).rxBusy = true ∧
    (reading .s1 1#8 1#7 [0x01#8]).q = ⟨0x321#32, false, false, ⟨false, false, false⟩, [0x01#8]⟩ :: [] ∧
    passes (reading .s1 1#8 1#7 [0x01#8]) ⟨0x321#32, false, false, ⟨false, false, false⟩, [0x01#8]⟩ = true ∧
    exec (.fltMatch false 0x321#32) (reading .s1 1#8 1#7 [0x01#8]) =
      .next { reading .s1 1#8 1#7 [0x01#8] with q := [], rxFrame := some [0x01#8] } ∧
    decode (decodeCtx { reading .s1 1#8 1#7 [0x01#8] with q := [], rxFrame := some [0x01#8] })
      (.segRx (frameDw { reading .s1 1#8 1#7 [0x01#8] with q := [], rxFrame := some [0x01#8] } [0x01#8])) = .ok (.rxCont 1#7) :=
  ⟨⟨rfl, rfl, rfl⟩, rfl, rfl, rfl, rfl, rfl, rfl⟩

theorem witness_StagedWordIsNextInstruction :
    decodeTableWord 8 0x10 = some .cmdWrite ∧ decodeTableWord 10 0x3FF = some (.rxOutOfSeq 0xFF#8) ∧
    decodeTableWord 34 0x3FFFFFFFF = some (.fltStatus true 0xFFFFFFFF#32) ∧ decodeTableWord 0 0 = some .devqFetch := by decide

theorem witness_OpenCommand :
    ((openS [cmdTurn 1#32]).turns = .host 0x000#12 (.w32 1#32) :: [] ∧ (openS [cmdTurn 1#32]).isOpen = true) ∧
    ((hostS 1#32).turns = .host 0x000#12 (.w32 1#32) :: [] ∧ (hostS 1#32).isOpen = false ∧ (hostS 1#32).ctlBusy = false ∧
      (hostS 1#32).txBusy = false ∧ (hostS 1#32).rxBusy = false) ∧
    (ctlS false none).turns = .ctl none :: [] ∧ (ctlS false (some .err)).turns = .ctl (some .err) :: [] ∧
    (ctlS false (some .ok)).turns = .ctl (some .ok) :: [] := by decide

theorem witness_CloseCommand :
    ({ hostS 2#32 with txBusy := true }.turns = .host 0x000#12 (.w32 2#32) :: [] ∧ { hostS 2#32 with txBusy := true }.txBusy = true) ∧
    ((openS [cmdTurn 2#32]).turns = .host 0x000#12 (.w32 2#32) :: [] ∧ (openS [cmdTurn 2#32]).ctlBusy = false ∧
      (openS [cmdTurn 2#32]).txBusy = false ∧ (openS [cmdTurn 2#32]).rxBusy = false ∧ (openS [cmdTurn 2#32]).isOpen = true) ∧
    ((hostS 2#32).turns = .host 0x000#12 (.w32 2#32) :: [] ∧ (hostS 2#32).ctlBusy = false ∧
      (hostS 2#32).txBusy = false ∧ (hostS 2#32).rxBusy = false ∧ (hostS 2#32).isOpen = false) ∧
    (ctlS true none).turns = .ctl none :: [] ∧ (ctlS true (some .err)).turns = .ctl (some .err) :: [] ∧
    (ctlS true (some .ok)).turns = .ctl (some .ok) :: [] := by decide

/-- Open, no engine busy, SIZE 2, TX_LEN `n`, `k` bytes written. -/
def writeS (n : BitVec 16) (k : Nat) : State := { openS [cmdTurn 0x10#32] with size := 2#4, txLen := n, mem := msg k }

theorem witness_WriteCommand_stops :
    (2 ≤ (writing 3 0 .ok).size.toNat ∧ (writing 3 0 .ok).size.toNat ≤ 8 ∧ (writing 3 0 .ok).txBusy = true) ∧
    (2 ≤ (hostS 16#32).size.toNat ∧ (hostS 16#32).size.toNat ≤ 8 ∧ (hostS 16#32).txBusy = false ∧ (hostS 16#32).ctlBusy = false ∧
      (hostS 16#32).isOpen = false) := by decide

/-- The limit 128 at SIZE 2: 129 bytes, then 128 with one unwritten, then 0, and 2 written. -/
theorem witness_WriteCommand_open :
    (2 ≤ (writeS 129#16 0).size.toNat ∧ (writeS 129#16 0).size.toNat ≤ 8 ∧ (writeS 129#16 0).txBusy = false ∧
      (writeS 129#16 0).ctlBusy = false ∧ (writeS 129#16 0).isOpen = true) ∧
    128 * ((writeS 129#16 0).size.toNat - 1) < (writeS 129#16 0).txLen.toNat ∧
    ((writeS 128#16 0).txLen.toNat ≤ 128 * ((writeS 128#16 0).size.toNat - 1) ∧
      ∃ k, k < (writeS 128#16 0).txLen.toNat ∧ Memory.read (writeS 128#16 0).mem (0x400 + k) = none) ∧
    ((writeS 0#16 0).txLen.toNat ≤ 128 * ((writeS 0#16 0).size.toNat - 1) ∧
      ∀ k, k < (writeS 0#16 0).txLen.toNat → Memory.read (writeS 0#16 0).mem (0x400 + k) ≠ none) ∧
    ((writeS 2#16 2).txLen.toNat ≤ 128 * ((writeS 2#16 2).size.toNat - 1) ∧
      ∀ k, k < (writeS 2#16 2).txLen.toNat → Memory.read (writeS 2#16 2).mem (0x400 + k) ≠ none) := by
  refine ⟨by decide, by decide, ⟨by decide, 127, by decide, by decide⟩, by decide, by decide⟩

theorem witness_ReadCommand :
    (countZero 1#8).rxBusy = true ∧ ((openS []).rxBusy = false ∧ (openS []).ctlBusy = false ∧ (openS []).isOpen = true) ∧
    ((closedS []).rxBusy = false ∧ (closedS []).ctlBusy = false ∧ (closedS []).isOpen = false) := by decide

theorem witness_ReservedCommandCode :
    (hostS 0x03#32).turns = .host 0x000#12 (.w32 0x03#32) :: [] ∧ (hostS 0x03#32).wiresClear ∧
    (0x03#32).toNat % 256 ≠ 0x01 ∧ (0x03#32).toNat % 256 ≠ 0x02 ∧ (0x03#32).toNat % 256 ≠ 0x10 ∧ (0x03#32).toNat % 256 ≠ 0x20 :=
  ⟨rfl, ⟨rfl, rfl, rfl⟩, by decide⟩

/-- A WRITE of one-byte payloads after `i` frames, `n` bytes in all. -/
def narrow (n i : Nat) (a : Option Answer) : State :=
  { openS [.tx a] with
    size := 2#4, txBusy := true, txN := BitVec.ofNat 16 n, txNb := 1#3, txOff := BitVec.ofNat 16 i, txI := BitVec.ofNat 8 i, mem := msg n }

theorem witness_TransmitNonFinalFrame :
    ((0x81#8).toNat = 0x80 + (1#7).toNat ∧ (narrow 2 0 none).txFrame = none ∧ (narrow 2 0 none).txRet = none ∧
      (narrow 2 0 none).txOff.toNat + (narrow 2 0 none).txNb.toNat ≤ 896 ∧
      Memory.readBytes (narrow 2 0 none).mem (0x400 + (narrow 2 0 none).txOff.toNat) (narrow 2 0 none).txNb.toNat = some [0x01#8] ∧
      (narrow 2 0 none).turns = .tx none :: [] ∧ (narrow 2 0 (some .ok)).turns = .tx (some .ok) :: [] ∧
      (narrow 2 0 (some .err)).turns = .tx (some .err) :: []) ∧
    ((0x01#8).toNat = (1#7).toNat ∧ (narrow 3 1 none).txFrame = none ∧ (narrow 3 1 none).txRet = none ∧
      (narrow 3 1 none).txOff.toNat + (narrow 3 1 none).txNb.toNat ≤ 896 ∧
      Memory.readBytes (narrow 3 1 none).mem (0x400 + (narrow 3 1 none).txOff.toNat) (narrow 3 1 none).txNb.toNat = some [0x02#8]) := by
  decide

theorem witness_TransmitFinalFrame :
    ((0x00#8).toNat = 0 ∧ (narrow 0 0 none).txFrame = none ∧ (narrow 0 0 none).txRet = none ∧
      (narrow 0 0 none).txOff.toNat ≤ (narrow 0 0 none).txN.toNat ∧
      (narrow 0 0 none).txN.toNat - (narrow 0 0 none).txOff.toNat ≤ (narrow 0 0 none).txNb.toNat ∧ (narrow 0 0 none).txN.toNat ≤ 896 ∧
      Memory.readBytes (narrow 0 0 none).mem (0x400 + (narrow 0 0 none).txOff.toNat)
        ((narrow 0 0 none).txN.toNat - (narrow 0 0 none).txOff.toNat) = some [] ∧
      (narrow 0 0 none).turns = .tx none :: [] ∧ (narrow 0 0 (some .ok)).turns = .tx (some .ok) :: [] ∧
      (narrow 0 0 (some .err)).turns = .tx (some .err) :: []) ∧
    ((0x01#8).toNat = (1#7).toNat ∧ (narrow 2 1 none).txFrame = none ∧ (narrow 2 1 none).txRet = none ∧
      (narrow 2 1 none).txOff.toNat ≤ (narrow 2 1 none).txN.toNat ∧
      (narrow 2 1 none).txN.toNat - (narrow 2 1 none).txOff.toNat ≤ (narrow 2 1 none).txNb.toNat ∧ (narrow 2 1 none).txN.toNat ≤ 896 ∧
      Memory.readBytes (narrow 2 1 none).mem (0x400 + (narrow 2 1 none).txOff.toNat)
        ((narrow 2 1 none).txN.toNat - (narrow 2 1 none).txOff.toNat) = some [0x02#8]) := by
  decide

theorem witness_CanFrameTransmit :
    { openS [.tx (some .ok)] with txFrame := some [0x00#8] }.txFrame = some [0x00#8] ∧
    { openS [.tx (some .ok)] with txFrame := some [0x00#8] }.turns = .tx (some .ok) :: [] := by decide

/-- A frame on its way to the decoder. -/
def delivering (f : Frame) : State := { countZero 1#8 with rxFrame := some f }

theorem witness_Receive :
    (delivering []).rxFrame = some [] ∧
    ((delivering [0x00#8, 1#8, 2#8, 3#8, 4#8, 5#8, 6#8, 7#8]).rxFrame = some (0x00#8 :: [1#8, 2#8, 3#8, 4#8, 5#8, 6#8, 7#8]) ∧
      [1#8, 2#8, 3#8, 4#8, 5#8, 6#8, 7#8].length ≤ 7) := by decide

/-- The states in which the class clauses speak: S0 with a single, a malformed and a start frame, S1 with a continuation. -/
theorem witness_Receive_classes :
    ({ delivering [0x00#8] with rxState := .s0 }.rxFrame = some (0x00#8 :: []) ∧ { delivering [0x00#8] with rxState := .s0 }.rxState = .s0) ∧
    ({ delivering [0x7F#8] with rxState := .s0 }.rxFrame = some (0x7F#8 :: []) ∧
      rxClass { delivering [0x7F#8] with rxState := .s0 } [0x7F#8] = .rxMalformed 127#7) ∧
    rxClass { delivering [0x80#8] with rxState := .s0 } [0x80#8] = .rxStart 0#7 ∧
    ((delivering [0x01#8]).rxFrame = some (0x01#8 :: []) ∧ (delivering [0x01#8]).rxState = .s1 ∧
      rxClass (delivering [0x01#8]) [0x01#8] = .rxCont 1#7) ∧
    rxClass (delivering [0x80#8]) [0x80#8] = .rxOutOfSeq 0x80#8 := by decide

/-- The last continuation that RXBUF has room for, with ICONT equal to NCONT and not. -/
theorem witness_ReceiveContinuation :
    ({ delivering [0x7F#8, 7#8] with rxLen := 895#16, iCont := 127#8, nCont := 127#7 }.rxFrame = some (0x7F#8 :: [7#8]) ∧
      { delivering [0x7F#8, 7#8] with rxLen := 895#16, iCont := 127#8, nCont := 127#7 }.rxLen.toNat + [7#8].length ≤ 896 ∧
      { delivering [0x7F#8, 7#8] with rxLen := 895#16, iCont := 127#8, nCont := 127#7 }.iCont.toNat =
        { delivering [0x7F#8, 7#8] with rxLen := 895#16, iCont := 127#8, nCont := 127#7 }.nCont.toNat) ∧
    ((delivering [0x01#8]).rxLen.toNat + ([] : Frame).length ≤ 896 ∧
      (delivering [0x01#8]).iCont.toNat ≠ (delivering [0x01#8]).nCont.toNat) := by decide

theorem witness_FilterSkipsOnlyPop :
    (filtering true false 0x321#32).q = ⟨0x321#32, false, true, ⟨false, true, false⟩, [0x00#8, 0x11#8]⟩ :: [] ∧
    (filtering true false 0x321#32).turns = .rx none :: [] ∧ (filtering true false 0x321#32).rxBusy = true ∧
    (filtering true false 0x321#32).wiresClear ∧
    (true ≠ (filtering false true 0x321#32).rxExt ∧ 0x320#32 ≠ (filtering false false 0x320#32).rxId) :=
  ⟨rfl, rfl, rfl, ⟨rfl, rfl, rfl⟩, by decide⟩

theorem witness_Filter_classes :
    (filtering false true 0x321#32).q.map CanMsg.status = [false] ∧ (filtering false true 0x321#32).rxExt = false ∧
    fltClass (filtering false false 0x320#32) ⟨0x320#32, false, false, ⟨false, true, false⟩, []⟩ = .fltIdMismatch false 0x320#32 ∧
    fltClass (filtering false false 0x321#32) ⟨0x321#32, false, false, ⟨false, true, false⟩, []⟩ = .fltMatch false 0x321#32 := by decide

theorem witness_FilterMatchDelivers :
    (filtering false false 0x321#32).q = ⟨0x321#32, false, false, ⟨false, true, false⟩, [0x00#8, 0x11#8]⟩ :: [] := by decide

/-- The RX engine's move with this answer, the queue empty. -/
def fetching (a : Option ReadAnswer) : State := { countZero 1#8 with turns := [.rx a] }

theorem witness_BatchFetch :
    ((closedS [.rx none]).turns = .rx none :: [] ∧ (closedS [.rx none]).wiresClear ∧ (closedS [.rx none]).rxBusy = false) ∧
    ((fetching none).turns = .rx none :: [] ∧ (fetching none).wiresClear ∧ (fetching none).rxBusy = true ∧ (fetching none).q = []) ∧
    (fetching (some .err)).turns = .rx (some .err) :: [] ∧
    (fetching (some (.batch []))).turns = .rx (some (.batch [])) :: [] ∧
    ((fetching (some (.batch (filtering true true 0#32).q))).turns = .rx (some (.batch (filtering true true 0#32).q)) :: [] ∧
      (filtering true true 0#32).q ≠ [] ∧ (filtering true true 0#32).q.length ≤ 64 ∧
      ∀ m ∈ (filtering true true 0#32).q, m.data.length ≤ 8) :=
  ⟨⟨rfl, ⟨rfl, rfl, rfl⟩, rfl⟩, ⟨rfl, ⟨rfl, rfl, rfl⟩, rfl, rfl⟩, rfl, rfl, rfl, by decide, by decide, by decide⟩

/-- Both sides of the table, row by row at the rows' ends. -/
theorem witness_BusErrorTable :
    busErrorCase (closedS []) 0x030#12 .r32 ∧ busErrorCase (closedS []) 0x3FC#12 .r32 ∧ busErrorCase (closedS []) 0xB80#12 .r8 ∧
    busErrorCase (closedS []) 0x02F#12 .r8 ∧ busErrorCase (closedS []) 0x402#12 (.w32 0#32) ∧
    busErrorCase (closedS []) 0x800#12 (.w8 0#8) ∧ busErrorCase (writing 3 0 .ok) 0x77F#12 (.w8 0#8) ∧
    busErrorCase (countZero 1#8) 0xB7F#12 .r8 ∧ ¬busErrorCase (closedS []) 0x77F#12 (.w8 0#8) ∧
    ¬busErrorCase (closedS []) 0x02C#12 .r32 ∧ ¬busErrorCase (closedS []) 0x000#12 (.w32 0x10#32) := by
  refine ⟨?_, ?_, ?_, ?_, ?_, ?_, ?_, ?_, ?_, ?_, ?_⟩ <;> simp [busErrorCase, Access.bytes, Access.isWrite, closedS, State.reset, writing,
    openS, countZero]

/-- The accesses at CMD that are no word write: a word read goes on, a byte write is a case of the table. -/
theorem witness_BusErrorTable_cmd :
    ¬busErrorCase (closedS []) 0x000#12 .r32 ∧ (∀ v, Access.r32 = .w32 v → (0x000#12 : BitVec 12) ≠ 0x000#12) ∧
    busErrorCase (closedS []) 0x000#12 (.w8 1#8) := by
  refine ⟨?_, fun _ h => (by cases h), ?_⟩ <;> simp [busErrorCase, Access.bytes, Access.isWrite]

/-- An unwritten byte under the last byte of a word read. -/
theorem witness_BusErrorTable_unwritten : busErrorCase { closedS [] with mem := msg 3 } 0x400#12 .r32 :=
  .inr (.inr (.inr (.inr (.inr (.inr ⟨rfl, .inl (by decide), 3, by decide, by decide⟩)))))

theorem witness_CmdErrorTable :
    (cmdErrorCase (hostS 3#32) 0x000#12 3#32 ∧ cmdErrorCase (openS []) 0x000#12 1#32 ∧ cmdErrorCase (countZero 1#8) 0x000#12 2#32 ∧
      cmdErrorCase (writing 3 0 .ok) 0x000#12 0x10#32 ∧ cmdErrorCase (countZero 1#8) 0x000#12 0x20#32 ∧
      cmdErrorCase (openS []) 0x010#12 0#32 ∧ cmdErrorCase (closedS []) 0x008#12 1#32 ∧ cmdErrorCase (closedS []) 0x008#12 9#32 ∧
      cmdErrorCase (writing 3 0 .ok) 0x014#12 3#32) ∧
    (¬cmdErrorCase (closedS []) 0x008#12 2#32 ∧ ¬cmdErrorCase (closedS []) 0x008#12 8#32 ∧
      ¬cmdErrorCase (hostS 1#32) 0x000#12 1#32) := by
  refine ⟨⟨?_, ?_, ?_, ?_, ?_, ?_, ?_, ?_, ?_⟩, ?_, ?_, ?_⟩ <;> simp [cmdErrorCase, hostS, closedS, State.reset, writing, openS, countZero]

theorem witness_CmdErrorTable_move :
    (hostS 3#32).turns = .host 0x000#12 (.w32 3#32) :: [] ∧ (0x000#12).toNat < 0x030 ∧ (0x000#12).toNat % 4 = 0 := by decide

/-- A host access at an offset as the next move. -/
def accessS (off : BitVec 12) (acc : Access) : State := closedS [.host off acc]

theorem witness_HostReadsHaveNoSideEffect :
    ((accessS 0x02C#12 .r32).turns = .host 0x02C#12 .r32 :: [] ∧ (accessS 0x02C#12 .r32).wiresClear ∧
      step (accessS 0x02C#12 .r32) = .next { accessS 0x02C#12 .r32 with busOut := [.word 0#32], turns := [] } ∧
      Access.isWrite .r32 = false) ∧
    ((accessS 0x77F#12 (.w8 1#8)).turns = .host 0x77F#12 (.w8 1#8) :: [] ∧ (accessS 0x77F#12 (.w8 1#8)).wiresClear ∧
      step (accessS 0x77F#12 (.w8 1#8)) = .next { accessS 0x77F#12 (.w8 1#8) with mem := [(0x77F, 1#8)], turns := [] } ∧
      (Access.w8 1#8).isWrite = true) := ⟨⟨rfl, ⟨rfl, rfl, rfl⟩, rfl, rfl⟩, rfl, ⟨rfl, rfl, rfl⟩, rfl, rfl⟩

theorem witness_RegisterReadValues : (filtering true true 0#32).q.length ≤ 64 := by decide

theorem witness_RegisterWrites :
    (closedS []).isOpen = false ∧ (closedS []).ctlBusy = false ∧ (closedS []).txBusy = false ∧
    2 ≤ (0x302#32).toNat % 16 ∧ (0x302#32).toNat % 16 ≤ 8 ∧ (0xFFFFFFF8#32).toNat % 16 ≤ 8 := by decide

theorem witness_TxBufStoreLoad :
    (0x400 ≤ (0x77C#12).toNat ∧ (0x77C#12).toNat < 0x780 ∧ (0x77C#12).toNat % 4 = 0) ∧
    (0x400 ≤ (0x77F#12).toNat ∧ (0x77F#12).toNat < 0x780) ∧ (closedS []).txBusy = false := by decide

theorem witness_RxBufLoad :
    let s := { closedS [] with mem := Memory.writeBytes [] 0xB7C [1#8, 2#8, 3#8, 4#8] }
    0x800 ≤ (0xB7C#12).toNat ∧ (0xB7C#12).toNat < 0xB80 ∧ s.rxBusy = false ∧ (0xB7C#12).toNat % 4 = 0 ∧
    Memory.read s.mem (0xB7C#12).toNat = some 1#8 ∧ Memory.read s.mem ((0xB7C#12).toNat + 1) = some 2#8 ∧
    Memory.read s.mem ((0xB7C#12).toNat + 2) = some 3#8 ∧ Memory.read s.mem ((0xB7C#12).toNat + 3) = some 4#8 := by decide

/-- Any block has an address past its end; no value of BASE is needed to name it (log entry 8). -/
theorem witness_BlockAddressDecode (acc : Access) :
    (closedS [.bus (Config.base + 4096) acc]).wiresClear ∧
    (closedS [.bus (Config.base + 4096) acc]).turns = .bus (Config.base + 4096) acc :: [] ∧
    (Config.base + 4096 < Config.base ∨ Config.base + 4096 ≤ Config.base + 4096) :=
  ⟨⟨rfl, rfl, rfl⟩, rfl, .inr (Nat.le_refl _)⟩

theorem witness_ResetMove : (openS [.reset]).turns = .reset :: [] := by decide

theorem witness_StepKeepsInvariant :
    Inv (countZero 128#8) ∧ step (countZero 128#8) = .next { countZero 128#8 with turns := [] } :=
  ⟨inv_countZero _ (by decide), rfl⟩

theorem witness_EngineMovesNeverFault :
    (Inv (countZero 1#8) ∧ (countZero 1#8).turns = .rx none :: [] ∧ Turn.isHost (.rx none) = false) ∧
    (Inv (writing 1 0 .ok) ∧ (writing 1 0 .ok).turns = .tx (some .ok) :: [] ∧ Turn.isHost (.tx (some .ok)) = false) :=
  ⟨⟨inv_countZero _ (by decide), rfl, rfl⟩, witness_Inv_writing.1, rfl, rfl⟩

theorem witness_CmdErrIsSticky :
    { hostS 0x10#32 with cmdErr := true }.turns = cmdTurn 0x10#32 :: [] ∧ cmdTurn 0x10#32 ≠ .reset ∧
    { hostS 0x10#32 with cmdErr := true }.cmdErr = true ∧
    step { hostS 0x10#32 with cmdErr := true } = .next { hostS 0x10#32 with cmdErr := true, txRes := .notOpen, turns := [] } :=
  ⟨rfl, by decide, rfl, rfl⟩

theorem witness_ErrCntCountsAnomalies :
    (reading .s0 0#8 0#7 []).wiresClear ∧ (reading .s0 0#8 0#7 []).turns = .rx none :: [] ∧ (Turn.rx none) ≠ .reset ∧
    decodesNext (reading .s0 0#8 0#7 []) = some (.rxZeroLen .s0) ∧
    step (reading .s0 0#8 0#7 []) = .next { reading .s0 0#8 0#7 [] with
      q := [], turns := [], errCnt := 1#32, rxLen := 0#16, trace := [⟨.rx, .unknown, []⟩] } :=
  ⟨⟨rfl, rfl, rfl⟩, rfl, by decide, rfl, rfl⟩

/-- A step that reads ERRCNT for the host. -/
theorem witness_ErrCntIsNeverRead :
    step (accessS 0x020#12 .r32) = .next { accessS 0x020#12 .r32 with busOut := [.word 0#32], turns := [] } := rfl

theorem witness_TraceAltersNothing :
    step (reading .s0 0#8 0#7 []) = .next { reading .s0 0#8 0#7 [] with
      q := [], turns := [], errCnt := 1#32, rxLen := 0#16, trace := [⟨.rx, .unknown, []⟩] } := rfl

theorem witness_ReadOkOnlyFromWholeMessage :
    (reading .s0 0#8 0#7 [0x00#8]).wiresClear ∧ (reading .s0 0#8 0#7 [0x00#8]).rxRes ≠ .ok ∧
    step (reading .s0 0#8 0#7 [0x00#8]) = .next { reading .s0 0#8 0#7 [0x00#8] with
      q := [], turns := [], rxLen := 0#16, rxRes := .ok, rxBusy := false, trace := [⟨.rx, .single, [0x00#8]⟩] } :=
  ⟨⟨rfl, rfl, rfl⟩, by decide, rfl⟩

theorem witness_TxMoveFrame :
    (writing 0 0 .err).turns = .tx (some .err) :: [] ∧ (writing 0 0 .err).wiresClear ∧
    ∃ t, step (writing 0 0 .err) = .next t ∧ t.txRes = .devWriteErr := ⟨rfl, ⟨rfl, rfl, rfl⟩, _, rfl, rfl⟩

theorem witness_TxMoveIgnoresReceiver :
    (writing 8 1 .ok).turns = .tx (some .ok) :: [] ∧ (writing 8 1 .ok).wiresClear ∧
    (∃ t, step (writing 8 1 .ok) = .next t ∧ t.txRes = .ok) ∧
    ∀ x, ¬(0x800 ≤ x ∧ x < 0xB80) → Memory.read { writing 8 1 .ok with mem := Memory.write (msg 8) 0xB7F 1#8 }.mem x =
      Memory.read (writing 8 1 .ok).mem x :=
  ⟨rfl, ⟨rfl, rfl, rfl⟩, ⟨_, rfl, rfl⟩, fun _ hx => Memory.read_write_other _ _ (by omega)⟩

theorem witness_RxMoveIgnoresTransmitter :
    (filtering false false 0x321#32).turns = .rx none :: [] ∧ (filtering false false 0x321#32).wiresClear ∧
    (∃ t, step (filtering false false 0x321#32) = .next t ∧ t.mem = [(0x800, 0x11#8)]) ∧
    ∀ x, 0x800 ≤ x ∧ x < 0xB80 → Memory.read { filtering false false 0x321#32 with mem := [(0x400, 1#8)] }.mem x =
      Memory.read (filtering false false 0x321#32).mem x :=
  ⟨rfl, ⟨rfl, rfl, rfl⟩, ⟨_, rfl, rfl⟩, fun _ hx => Memory.read_write_other [] 1#8 (by omega)⟩

theorem witness_RxMoveFrame :
    (filtering false false 0x321#32).turns = .rx none :: [] ∧ (filtering false false 0x321#32).wiresClear ∧
    ∃ t, step (filtering false false 0x321#32) = .next t ∧ t.mem = [(0x800, 0x11#8)] := ⟨rfl, ⟨rfl, rfl, rfl⟩, _, rfl, rfl⟩

theorem witness_CtlMoveFrame :
    (ctlS true (some .err)).turns = .ctl (some .err) :: [] ∧ (ctlS true (some .err)).wiresClear ∧
    ∃ t, step (ctlS true (some .err)) = .next t ∧ t.isOpen = false := ⟨rfl, ⟨rfl, rfl, rfl⟩, _, rfl, rfl⟩

theorem witness_OpenSessionKeepsConfiguration :
    (openS [.host 0x00C#12 (.w32 5#32)]).turns = .host 0x00C#12 (.w32 5#32) :: [] ∧
    (Turn.host 0x00C#12 (.w32 5#32)) ≠ .reset ∧ (openS [.host 0x00C#12 (.w32 5#32)]).isOpen = true ∧
    step (openS [.host 0x00C#12 (.w32 5#32)]) = .next { openS [] with cmdErr := true } := ⟨rfl, by decide, rfl, rfl⟩

theorem witness_QueueChangesOnlyAtHead :
    (fetching (some (.batch (filtering true true 0#32).q))).wiresClear ∧
    ∃ t, step (fetching (some (.batch (filtering true true 0#32).q))) = .next t ∧ t.q = (filtering true true 0#32).q :=
  ⟨⟨rfl, rfl, rfl⟩, _, rfl, rfl⟩

theorem witness_CountZeroStartNeverCompletes :
    (Inv (countZero 1#8) ∧ (countZero 1#8).rxState = .s1 ∧ (countZero 1#8).nCont = 0#7 ∧
      step (countZero 1#8) = .next { countZero 1#8 with turns := [] }) ∧
    (Inv (countZero 128#8) ∧ (countZero 128#8).rxState = .s1 ∧ (countZero 128#8).nCont = 0#7 ∧ (countZero 128#8).iCont.toNat = 128) :=
  ⟨⟨inv_countZero _ (by decide), rfl, rfl, rfl⟩, inv_countZero _ (by decide), rfl, rfl, rfl⟩

theorem witness_ReadWaitsWithoutBound :
    (countZero 1#8).wiresClear ∧ (countZero 1#8).rxBusy = true ∧ (countZero 1#8).q = [] := ⟨⟨rfl, rfl, rfl⟩, rfl, rfl⟩

theorem witness_FrameCountLaws :
    1 ≤ 7 ∧ [1#8, 2#8].length ≤ 7 ∧ 1 < [1#8, 2#8].length ∧ [1#8, 2#8].length ≤ 128 * 1 := by decide

theorem witness_WriteSubmitsTheFrames :
    (narrow 2 0 none).wiresClear ∧ (narrow 2 0 none).txBusy = true ∧ (narrow 2 0 none).txOff = 0#16 ∧ (narrow 2 0 none).txI = 0#8 ∧
    1 ≤ (narrow 2 0 none).txNb.toNat ∧ (narrow 2 0 none).txN.toNat = [1#8, 2#8].length ∧
    [1#8, 2#8].length ≤ 128 * (narrow 2 0 none).txNb.toNat ∧ holdsAt (narrow 2 0 none).mem 0x400 [1#8, 2#8] := by
  refine ⟨⟨rfl, rfl, rfl⟩, rfl, rfl, rfl, by decide, by decide, by decide, ?_⟩
  intro k b h
  match k, h with
  | 0, h => injection h with h; subst h; decide
  | 1, h => injection h with h; subst h; decide

/-- L1-2: at SIZE 2 the message 01 02 is 81 01 and 01 02; the frames come in two batches with a skipped message and a wait. -/
def deliveries : List (Option ReadAnswer) :=
  [some (.batch [⟨0x321#32, false, false, ⟨false, false, false⟩, [0x81#8, 1#8]⟩, ⟨0x321#32, false, true, ⟨true, false, false⟩, []⟩]),
    none, none, none, some (.batch [⟨0x321#32, false, false, ⟨false, false, false⟩, [0x01#8, 2#8]⟩]), none]

theorem witness_ReadReassemblesTheFrames :
    ({ countZero 1#8 with rxState := .s0 } : State).wiresClear ∧ { countZero 1#8 with rxState := .s0 }.rxBusy = true ∧
    { countZero 1#8 with rxState := .s0 }.rxState = .s0 ∧ 1 ≤ 1 ∧ 1 ≤ 7 ∧ [1#8, 2#8].length ≤ 128 * 1 ∧
    (∀ a ∈ deliveries, goodAnswer a) ∧
    ((examined { countZero 1#8 with rxState := .s0 }.q deliveries).filter (passes { countZero 1#8 with rxState := .s0 })).map CanMsg.data =
      segFrames 1 [1#8, 2#8] := by
  refine ⟨⟨rfl, rfl, rfl⟩, rfl, rfl, by decide, by decide, by decide, ?_, by decide⟩
  simp [deliveries, goodAnswer]

theorem witness_WriteEndsWithin128Answers :
    Inv (writing 1 0 .ok) ∧ (writing 1 0 .ok).txBusy = true ∧ 128 ≤ (List.replicate 128 Answer.err).length :=
  ⟨witness_Inv_writing.1, rfl, by simp⟩

end Sys2Proof.Tests
end

section
/-! PROOFS. What one move of an agent runs, and what the two engines leave to each other (00_scope.md R15, R16). -/

namespace Sys2Proof.Machine

/-! ## The operation a move runs -/

theorem step_of_select_run {s : State} {i : Instr} (h : select s = .run i) : step s = mapNext endTurn (runInstr i s) := by
  simp only [step, perform, h]

theorem step_of_select_idle {s : State} (h : select s = .idle) : step s = .next (endTurn s) := by
  simp only [step, perform, h, mapNext_next]

/-- A host write of a word at `CMD` runs the command the word decodes to (10_state.md R22). -/
theorem step_host_cmd {s : State} {v : Word} {rest : List Turn} (ht : s.turns = .host 0x000#12 (.w32 v) :: rest) :
    step s = mapNext endTurn (exec (decodeCmd v) s) := by
  have hs : select s = .access 0x000#12 (.w32 v) := by simp only [select, ht]
  simp only [step, perform, hs]
  rfl

theorem step_ctl_busy {s : State} {a : Option Answer} {rest : List Turn} (ht : s.turns = .ctl a :: rest)
    (hb : s.ctlBusy = true) : step s = mapNext endTurn (exec (if s.isOpen then .cmdClose else .cmdOpen) s) := by
  have hs : select s = .run (if s.isOpen then .cmdClose else .cmdOpen) := by simp only [select, ht, selectCtl, hb, if_true]
  rw [step_of_select_run hs, runInstr_alone (by cases s.isOpen <;> simp)]

theorem txClass_ne_fltMatch (s : State) (e : Bool) (d : Word) : txClass s ≠ .fltMatch e d := by
  unfold txClass
  split <;> split <;> simp

theorem step_tx_busy {s : State} {a : Option Answer} {rest : List Turn} (ht : s.turns = .tx a :: rest) (hw : s.wiresClear)
    (hb : s.txBusy = true) : step s = mapNext endTurn (exec (txClass s) s) := by
  have hs : select s = .run (txClass s) := by simp only [select, ht, selectTx, hb, hw.2.1, if_true]
  rw [step_of_select_run hs, runInstr_alone (txClass_ne_fltMatch s)]

theorem step_tx_idle {s : State} {a : Option Answer} {rest : List Turn} (ht : s.turns = .tx a :: rest)
    (hb : s.txBusy = false) : step s = .next (endTurn s) :=
  step_of_select_idle (by simp only [select, ht, selectTx, hb, Bool.false_eq_true, if_false])

theorem step_rx_idle {s : State} {a : Option ReadAnswer} {rest : List Turn} (ht : s.turns = .rx a :: rest)
    (hb : s.rxBusy = false) : step s = .next (endTurn s) :=
  step_of_select_idle (by simp only [select, ht, selectRx, hb, Bool.false_eq_true, if_false])

theorem step_rx_fetch {s : State} {a : Option ReadAnswer} {rest : List Turn} (ht : s.turns = .rx a :: rest)
    (hw : s.wiresClear) (hb : s.rxBusy = true) (hq : s.q = []) : step s = mapNext endTurn (exec .devqFetch s) := by
  have hs : select s = .run .devqFetch := by simp only [select, ht, selectRx, hb, hw.1, hq, if_true]
  rw [step_of_select_run hs, runInstr_alone (by simp)]

theorem step_rx_message {s : State} {a : Option ReadAnswer} {rest : List Turn} {m : CanMsg} {q : List CanMsg}
    (ht : s.turns = .rx a :: rest) (hw : s.wiresClear) (hb : s.rxBusy = true) (hq : s.q = m :: q) :
    step s = mapNext endTurn (runInstr (fltClass s m) s) :=
  step_of_select_run (by simp only [select, ht, selectRx, hb, hw.1, hq, if_true])

theorem fltClass_ne_fltMatch {s : State} {m : CanMsg} (h : passes s m = false) (e : Bool) (d : Word) :
    fltClass s m ≠ .fltMatch e d := by
  rcases fltClass_cases s m with ⟨hp, _⟩ | ⟨_, hc | hc | hc⟩
  · rw [h] at hp; cases hp
  all_goals rw [hc]; simp

/-- The decode word of a frame decodes to the frame's class (30_encoding.md R78, R79). -/
theorem decode_frameDw (s : State) (f : Frame) : decode (decodeCtx s) (.segRx (frameDw s f)) = .ok (rxClass s f) := by
  cases f with
  | nil => simp only [decode, decodeRx, frameDw, dw_ctl, dw_ne, dw_state, rxClass, Bool.false_eq_true, if_false, if_true]
  | cons ctl p => simp only [decode, decodeRx, frameDw, dw_ctl, dw_ne, dw_state, rxClass, decodeCtx, if_true]

/-- FLT.MATCH on the head of the queue (42_can_dispatch.md R143). -/
theorem exec_fltMatch {s : State} {m : CanMsg} {q : List CanMsg} (hq : s.q = m :: q) (e : Bool) (d : Word) :
    exec (.fltMatch e d) s = .next { s with q := q, rxFrame := some m.data } := by
  simp only [exec, execFltMatch, popQueue, hq, List.head?_cons, List.tail_cons, Option.map_some]

/-- Settles O10: each kind of move selects the operation its word decodes to, and only FLT.MATCH is followed by another. -/
theorem stepRunsDecodedInstruction : Obligations.StepRunsDecodedInstruction := by
  intro s rest hw
  refine ⟨?host, ?opens, ?closes, ?tx, ?fetch, ?skip, ?deliver⟩
  case host =>
    intro c v i ht hd
    cases hd
    exact step_host_cmd ht
  case opens =>
    intro a ht hb ho
    rw [step_ctl_busy ht hb, ho]
    rfl
  case closes =>
    intro a ht hb ho
    rw [step_ctl_busy ht hb, ho]
    rfl
  case tx => exact fun a ht hb => step_tx_busy ht hw hb
  case fetch => exact fun a ht hb hq => step_rx_fetch ht hw hb hq
  case skip =>
    intro a m q i ht hb hq hp hd
    cases hd
    rw [step_rx_message ht hw hb hq, runInstr_alone (fltClass_ne_fltMatch hp)]
    rfl
  case deliver =>
    intro a m q s' j ht hb hq hp he hd
    rw [exec_fltMatch hq] at he
    cases he
    rw [decode_frameDw] at hd
    cases hd
    rw [step_rx_message ht hw hb hq, runInstr_match hq hp]
    rfl

/-! ## What an engine's move can change -/

/-- Settles O48: each case of a TX engine's move writes only the fields named. -/
theorem txMoveFrame : Obligations.TxMoveFrame := by
  intro s t a rest ht hw h
  rcases step_tx ht hw with ⟨t', ht', hm⟩ | ⟨_, _, hf⟩
  · rw [h] at ht'
    cases ht'
    cases hm <;> rfl
  · rw [h] at hf
    cases hf

/-- Bytes stored inside RXBUF leave every byte outside it. -/
theorem read_writeBytes_outside_rxBuf (m : Memory) {off x : Nat} {v : List Byte} (hv : off + v.length ≤ 896)
    (hx : ¬(0x800 ≤ x ∧ x < 0xB80)) : Memory.read (Memory.writeBytes m (0x800 + off) v) x = Memory.read m x :=
  Memory.read_writeBytes_outside m v (by omega)

/-- What the decode of a frame can change. -/
theorem Decoded.frame {s t : State} {q : List CanMsg} {rest : List Turn} {f : Frame} (h : Decoded s q rest f t) :
    t = { s with
      rxLen := t.rxLen, errCnt := t.errCnt, rxState := t.rxState, iCont := t.iCont, nCont := t.nCont, rxRes := t.rxRes
      rxBusy := t.rxBusy, q := t.q, mem := t.mem, trace := t.trace, devLog := t.devLog, turns := rest } ∧
    ∀ x, ¬(0x800 ≤ x ∧ x < 0xB80) → Memory.read t.mem x = Memory.read s.mem x := by
  cases h with
  | anomaly => exact ⟨rfl, fun _ _ => rfl⟩
  | single _ _ fits => exact ⟨rfl, fun _ hx => read_writeBytes_outside_rxBuf s.mem (off := 0) (by omega) hx⟩
  | start _ _ _ fits => exact ⟨rfl, fun _ hx => read_writeBytes_outside_rxBuf s.mem (off := 0) (by omega) hx⟩
  | last _ _ _ _ fits => exact ⟨rfl, fun _ hx => read_writeBytes_outside_rxBuf s.mem fits hx⟩
  | cont _ _ _ _ fits => exact ⟨rfl, fun _ hx => read_writeBytes_outside_rxBuf s.mem fits hx⟩

/-- Settles O49: only the decode of a delivered frame stores bytes, and it stores them inside RXBUF. -/
theorem rxMoveFrame : Obligations.RxMoveFrame := by
  intro s t a rest ht hw h
  rcases step_rx ht hw with ⟨t', ht', hm⟩ | ⟨_, _, _, hf⟩ | ⟨_, _, _, _, _, _, hf⟩
  · rw [h] at ht'
    cases ht'
    cases hm with
    | deliver _ _ _ _ _ _ decoded => exact decoded.frame
    | _ => exact ⟨rfl, fun _ _ => rfl⟩
  all_goals
    rw [h] at hf
    cases hf

/-! ## The TX engine beside another receiver -/

/-- A state with the RX engine's state, the queue, the receive filter and the memory of `r`. -/
def withReceiver (r s : State) : State :=
  { s with
    rxLen := r.rxLen, errCnt := r.errCnt, rxState := r.rxState, iCont := r.iCont, nCont := r.nCont, rxRes := r.rxRes
    rxBusy := r.rxBusy, q := r.q, rxId := r.rxId, rxExt := r.rxExt, mem := r.mem }

/-- A read of TXBUF does not see what lies in RXBUF. -/
theorem memRead_tx_congr {m m' : Memory} (h : ∀ x, ¬(0x800 ≤ x ∧ x < 0xB80) → Memory.read m' x = Memory.read m x)
    (off n : Nat) : memRead .tx off n m' = memRead .tx off n m := by
  unfold memRead Config.msgCap
  split
  · exact Memory.readBytes_congr fun k hk => h _ (by simp only [Buf.base]; omega)
  · rfl

theorem frameWrite_withReceiver (r s : State) : frameWrite (withReceiver r s) = withReceiver r (frameWrite s) := by
  unfold frameWrite
  rw [show (withReceiver r s).txFrame = s.txFrame from rfl, show writeAnswer (withReceiver r s) = writeAnswer s from rfl]
  split <;> rfl

section
variable {r s : State} (hmem : ∀ x, ¬(0x800 ≤ x ∧ x < 0xB80) → Memory.read r.mem x = Memory.read s.mem x)
include hmem

theorem txSend_withReceiver (kind : TraceKind) (ctl : Byte) (n : Nat) {done : State → State}
    (hd : ∀ u, done (withReceiver r u) = withReceiver r (done u)) :
    txSend kind ctl n done (withReceiver r s) = mapNext (withReceiver r) (txSend kind ctl n done s) := by
  unfold txSend
  rw [show memRead .tx (withReceiver r s).txOff.toNat n (withReceiver r s).mem = memRead .tx s.txOff.toNat n s.mem from
    memRead_tx_congr hmem _ _]
  cases memRead .tx s.txOff.toNat n s.mem with
  | none => rfl
  | some bytes =>
    have hsent : frameWrite { withReceiver r s with txFrame := some (ctl :: bytes), txRet := none } =
        withReceiver r (frameWrite { s with txFrame := some (ctl :: bytes), txRet := none }) :=
      frameWrite_withReceiver r { s with txFrame := some (ctl :: bytes), txRet := none }
    simp only [hsent]
    generalize frameWrite { s with txFrame := some (ctl :: bytes), txRet := none } = sent
    have hret : (withReceiver r sent).txRet = sent.txRet := rfl
    rw [hret]
    cases sent.txRet with
    | none => rfl
    | some answer =>
      cases answer with
      | ok => exact congrArg Host.Outcome.next (hd (emitTrace .tx kind (ctl :: bytes) (clearTxWires sent)))
      | err => rfl

/-- The frame the TX engine sends, chosen by the TX engine's state alone (R100). -/
theorem exec_txClass_withReceiver :
    exec (txClass (withReceiver r s)) (withReceiver r s) = mapNext (withReceiver r) (exec (txClass s) s) := by
  rw [show txClass (withReceiver r s) = txClass s from rfl]
  unfold txClass
  split <;> split <;> exact txSend_withReceiver hmem _ _ _ fun _ => rfl

/-- A TX engine's move beside another receiver is the same move: the same outcome, a fault included. -/
theorem step_tx_withReceiver {a : Option Answer} {rest : List Turn} (ht : s.turns = .tx a :: rest) (hw : s.wiresClear) :
    step (withReceiver r s) = mapNext (withReceiver r) (step s) := by
  cases hb : s.txBusy with
  | true =>
    rw [step_tx_busy ht hw hb, step_tx_busy (s := withReceiver r s) ht hw hb, exec_txClass_withReceiver hmem]
    cases exec (txClass s) s <;> rfl
  | false =>
    rw [step_tx_idle ht hb, step_tx_idle (s := withReceiver r s) ht hb]
    rfl

end

/-- Settles O51: the TX engine's move commutes with replacing the receiver. -/
theorem txMoveIgnoresReceiver : Obligations.TxMoveIgnoresReceiver := by
  intro s t r a rest ht hw h hmem
  have hstep := step_tx_withReceiver hmem ht hw
  rw [h] at hstep
  exact hstep

/-! ## The RX engine beside another transmitter -/

/-- A state with the TX engine's state, TX_LEN, the transmit identifier and SIZE of `r`, and the memory `m`. -/
def withTransmitter (r : State) (m : Memory) (s : State) : State :=
  { s with
    txLen := r.txLen, txCount := r.txCount, txBusy := r.txBusy, txRes := r.txRes, txN := r.txN, txNb := r.txNb
    txOff := r.txOff, txI := r.txI, txId := r.txId, txExt := r.txExt, size := r.size, mem := m }

/-- `m` holds the RXBUF of one memory and, outside it, the bytes of another. -/
structure Splice (rx other m : Memory) : Prop where
  inside : ∀ x, 0x800 ≤ x ∧ x < 0xB80 → Memory.read m x = Memory.read rx x
  outside : ∀ x, ¬(0x800 ≤ x ∧ x < 0xB80) → Memory.read m x = Memory.read other x

/-- Bytes stored in RXBUF of both memories keep them spliced. -/
theorem Splice.writeBytes {rx other m : Memory} (h : Splice rx other m) {off : Nat} {v : List Byte}
    (hv : off + v.length ≤ 896) :
    Splice (Memory.writeBytes rx (0x800 + off) v) other (Memory.writeBytes m (0x800 + off) v) where
  inside x hx := Memory.read_writeBytes_congr _ v (h.inside x hx)
  outside x hx := (read_writeBytes_outside_rxBuf m hv hx).trans (h.outside x hx)

/-- If one outcome goes on, the other goes on to the same state beside the transmitter of `r`, with the same RXBUF and every byte
outside it still that of `r`. -/
def GoesOnBeside (r : State) (o o' : Out) : Prop :=
  ∀ t, o = .next t → ∃ m, o' = .next (withTransmitter r m t) ∧ Splice t.mem r.mem m

theorem goesOnBeside_next {r t : State} {m : Memory} (h : Splice t.mem r.mem m) :
    GoesOnBeside r (.next t) (.next (withTransmitter r m t)) := by
  intro u hu
  cases hu
  exact ⟨m, rfl, h⟩

theorem goesOnBeside_endTurn {r : State} {o o' : Out} (h : GoesOnBeside r o o') :
    GoesOnBeside r (mapNext endTurn o) (mapNext endTurn o') := by
  intro t ht
  obtain ⟨u, hu, rfl⟩ := mapNext_eq_next.mp ht
  obtain ⟨m, hm, hs⟩ := h u hu
  exact ⟨m, by rw [hm]; rfl, hs⟩

section
variable {r s : State} {m : Memory} (hm : Splice s.mem r.mem m)
include hm

theorem goesOnBeside_rxAccept (kind : TraceKind) (off : Nat) {done : State → State}
    (hd : ∀ k u, done (withTransmitter r k u) = withTransmitter r k (done u)) (hmem : ∀ u, (done u).mem = u.mem) :
    GoesOnBeside r (rxAccept kind off done s) (rxAccept kind off done (withTransmitter r m s)) := by
  rcases rxAccept_cases (kind := kind) (off := off) (done := done) (s := s) with ⟨_, e⟩ | ⟨hl, e⟩
  · intro t ht
    rw [e] at ht
    cases ht
  · rcases rxAccept_cases (kind := kind) (off := off) (done := done) (s := withTransmitter r m s) with ⟨hl', _⟩ | ⟨_, e'⟩
    · exact absurd hl (Nat.not_le.mpr hl')
    · intro t ht
      rw [e] at ht
      cases ht
      refine ⟨Memory.writeBytes m (0x800 + off) (payload (delivered s)), ?_, by rw [hmem]; exact hm.writeBytes hl⟩
      rw [← hd]
      exact e'

theorem goesOnBeside_devqFetch : GoesOnBeside r (execDevqFetch s) (execDevqFetch (withTransmitter r m s)) := by
  unfold execDevqFetch
  rw [show readAnswer (withTransmitter r m s) = readAnswer s from rfl]
  split
  · exact goesOnBeside_next hm
  · exact goesOnBeside_next hm
  · split_ifs
    · intro t ht
      cases ht
    · exact goesOnBeside_next hm
    · exact goesOnBeside_next hm

/-- The decode of a frame, its class read in any state. -/
theorem goesOnBeside_rxClass (u : State) (f : Frame) :
    GoesOnBeside r (exec (rxClass u f) s) (exec (rxClass u f) (withTransmitter r m s)) := by
  rcases rxClass_cases u f with ⟨_, hc, _⟩ | ⟨_, hc, _⟩ | ⟨_, hc⟩ | ⟨hc, _⟩ | ⟨n, hc, _⟩ | ⟨_, hc, _⟩ <;> rw [hc]
  · exact goesOnBeside_next hm
  · exact goesOnBeside_next hm
  · exact goesOnBeside_next hm
  · exact goesOnBeside_rxAccept hm .single 0 (fun _ _ => rfl) fun _ => rfl
  · exact goesOnBeside_rxAccept hm .start 0 (done := rxBegin n) (fun _ _ => rfl) fun _ => rfl
  · refine goesOnBeside_rxAccept hm .cont s.rxLen.toNat (fun k v => ?_) fun v => ?_
    · unfold rxContinue
      rw [show (withTransmitter r k v).iCont = v.iCont from rfl, show (withTransmitter r k v).nCont = v.nCont from rfl]
      split <;> rfl
    · rcases rxContinue_cases v with ⟨_, e⟩ | ⟨_, e⟩ <;> rw [e]

/-- An RX engine's move beside another transmitter. -/
theorem goesOnBeside_step_rx {a : Option ReadAnswer} {rest : List Turn} (ht : s.turns = .rx a :: rest)
    (hw : s.wiresClear) : GoesOnBeside r (step s) (step (withTransmitter r m s)) := by
  cases hb : s.rxBusy with
  | false =>
    rw [step_rx_idle ht hb, step_rx_idle (s := withTransmitter r m s) ht hb]
    exact goesOnBeside_next (t := endTurn s) hm
  | true =>
    cases hq : s.q with
    | nil =>
      rw [step_rx_fetch ht hw hb hq, step_rx_fetch (s := withTransmitter r m s) ht hw hb hq]
      exact goesOnBeside_endTurn (goesOnBeside_devqFetch hm)
    | cons msg q =>
      rw [step_rx_message ht hw hb hq, step_rx_message (s := withTransmitter r m s) ht hw hb hq]
      refine goesOnBeside_endTurn ?_
      cases hp : passes s msg with
      | false =>
        rw [runInstr_skip hp, runInstr_skip (s := withTransmitter r m s) hp]
        exact goesOnBeside_next (t := { s with q := s.q.tail }) hm
      | true =>
        rw [runInstr_match hq hp, runInstr_match (s := withTransmitter r m s) hq hp]
        exact goesOnBeside_rxClass (s := { s with q := q, rxFrame := some msg.data }) hm s msg.data

end

/-- Settles O52: the RX engine's move goes on beside any transmitter whose memory agrees on RXBUF. -/
theorem rxMoveIgnoresTransmitter : Obligations.RxMoveIgnoresTransmitter := by
  intro s t r a rest ht hw h hmem
  obtain ⟨m, hm, hs⟩ := goesOnBeside_step_rx (r := r) (m := r.mem) ⟨hmem, fun _ _ => rfl⟩ ht hw t h
  exact ⟨m, hm, hs.inside, hs.outside⟩

end Sys2Proof.Machine
end

section
/-! PROOFS. What a host's move can do, and the invariant of the machine: at reset and through every step. -/

namespace Sys2Proof.Machine

/-! ## What a host command can do -/

/-- What a command issued by the host does: a sticky error, a channel busy, or a channel completed at once (R83, R155). -/
inductive CmdIssued (s : State) : State → Prop where
  | error : CmdIssued s (raiseCmdError s)
  | ctl (ctlIdle : s.ctlBusy = false) (txIdle : s.txBusy = false) (rxIdle : s.rxBusy = false) :
      CmdIssued s { s with ctlRes := .none, ctlBusy := true }
  | closeNotOpen (closed : s.isOpen = false) : CmdIssued s { s with ctlRes := .notOpen, ctlBusy := false }
  | writeNotOpen (closed : s.isOpen = false) : CmdIssued s { s with txCount := 0#16, txRes := .notOpen, txBusy := false }
  | writeTooLong (session : s.isOpen = true) : CmdIssued s { s with
      txCount := 0#16, txN := s.txLen, txNb := sizeNb s, txOff := 0#16, txI := 0#8, txRes := .tooLong, txBusy := false }
  | write (ctlIdle : s.ctlBusy = false) (session : s.isOpen = true) (fits : s.txLen.toNat ≤ 128 * (sizeNb s).toNat)
      (message : ∀ k, k < s.txLen.toNat → written .tx k s.mem) : CmdIssued s { s with
        txCount := 0#16, txN := s.txLen, txNb := sizeNb s, txOff := 0#16, txI := 0#8, txRes := .none, txBusy := true }
  | readNotOpen (rxIdle : s.rxBusy = false) (closed : s.isOpen = false) :
      CmdIssued s { s with rxLen := 0#16, rxRes := .notOpen, rxBusy := false }
  | read (ctlIdle : s.ctlBusy = false) (session : s.isOpen = true) :
      CmdIssued s { s with rxLen := 0#16, rxState := .s0, rxRes := .none, rxBusy := true }

theorem cmdIssued_execCmdOpen {s t : State} (hm : ctlEngineMoves s = false) (h : execCmdOpen s = .next t) : CmdIssued s t := by
  simp only [execCmdOpen, hm, Bool.false_eq_true, if_false] at h
  split at h <;> cases h
  · exact .error
  · next hi =>
    simp only [openIllegal_iff, not_or, Bool.not_eq_true] at hi
    obtain ⟨_, hc, ht, hr⟩ := hi
    exact .ctl hc ht hr

theorem cmdIssued_execCmdClose {s t : State} (hm : ctlEngineMoves s = false) (h : execCmdClose s = .next t) : CmdIssued s t := by
  simp only [execCmdClose, hm, Bool.false_eq_true, if_false] at h
  split at h
  · cases h
    exact .error
  · next hi =>
    simp only [closeIllegal_iff, not_or, Bool.not_eq_true] at hi
    obtain ⟨hc, ht, hr⟩ := hi
    split at h <;> cases h
    · exact .ctl hc ht hr
    · next ho => exact .closeNotOpen (by simpa using ho)

theorem cmdIssued_execCmdWrite {s t : State} (h : execCmdWrite s = .next t) : CmdIssued s t := by
  rcases execCmdWrite_cases s with ⟨_, e⟩ | ⟨_, ho, e⟩ | ⟨_, ho, _, e⟩ | ⟨_, _, _, _, e⟩ | ⟨hi, ho, hl, ⟨m, hm⟩, e⟩ <;>
    rw [e] at h <;> cases h
  · exact .error
  · exact .writeNotOpen ho
  · exact .writeTooLong ho
  · have hc : s.ctlBusy = false := by
      simp only [← Bool.not_eq_true, writeIllegal_iff, not_or] at hi
      simpa using hi.2
    have hw : (Memory.readBytes s.mem Buf.tx.base s.txLen.toNat).isSome = true := by
      rw [show Memory.readBytes s.mem Buf.tx.base s.txLen.toNat = some m from (memRead_eq_some.mp hm).2]
      rfl
    exact .write hc ho hl (Memory.readBytes_isSome.mp hw)

theorem cmdIssued_execCmdRead {s t : State} (h : execCmdRead s = .next t) : CmdIssued s t := by
  unfold execCmdRead at h
  split at h
  · cases h
    exact .error
  · next hi =>
    simp only [readIllegal_iff, not_or, Bool.not_eq_true] at hi
    obtain ⟨hr, hc⟩ := hi
    split at h <;> cases h
    · next ho => exact .read hc ho
    · next ho => exact .readNotOpen hr (by simpa using ho)

/-- Everything a command word written by the host can do. -/
theorem exec_decodeCmd_next {v : Word} {s t : State} (hm : ctlEngineMoves s = false) (h : exec (decodeCmd v) s = .next t) :
    CmdIssued s t := by
  rcases decodeCode_cases (v.extractLsb' 0 8) with ⟨_, e⟩ | ⟨_, e⟩ | ⟨_, e⟩ | ⟨_, e⟩ | ⟨_, _, _, _, e⟩ <;>
    rw [show decodeCmd v = _ from e] at h
  · exact cmdIssued_execCmdOpen hm h
  · exact cmdIssued_execCmdClose hm h
  · exact cmdIssued_execCmdWrite h
  · exact cmdIssued_execCmdRead h
  · cases h
    exact .error

/-- What a host access does that goes on (R45, R49, R83, R155). -/
inductive Accessed (s : State) : State → Prop where
  | read (d : BusData) : Accessed s { s with busOut := s.busOut ++ [d] }
  | store (txIdle : s.txBusy = false) (a : Nat) (bs : List Byte) (low : 0x400 ≤ a) (high : a + bs.length ≤ 0x780) :
      Accessed s { s with mem := Memory.writeBytes s.mem a bs }
  | command (t : State) (issued : CmdIssued s t) : Accessed s t
  | register (t : State) (done : RegWrite s t) : Accessed s t

/-- Everything a host's move can do: an access, or nothing at an address outside the block. -/
theorem step_host_next {s t : State} {u : Turn} {rest : List Turn} (ht : s.turns = u :: rest) (hu : u.isHost = true)
    (h : step s = .next t) : ∃ s', t = endTurn s' ∧ (s' = s ∨ Accessed s s') := by
  rcases step_host ht hu h with rfl | ⟨off, acc, s', ha, rfl, hm⟩
  · exact ⟨s, rfl, .inl rfl⟩
  · refine ⟨s', rfl, .inr ?_⟩
    rcases hostAccess_next ha with ⟨_, _, d, rfl⟩ | ⟨bs, _, hb, hlo, hhi, rfl⟩ | ⟨v, _, _, hx⟩ | ⟨_, hr⟩
    · exact .read d
    · exact .store hb off.toNat bs hlo hhi
    · exact .command s' (exec_decodeCmd_next hm hx)
    · exact .register s' hr

/-! ## A move that goes on, by what it did -/

/-- An RX engine's move that goes on, by what it did. -/
theorem rxMoved_of_step {s t : State} {a : Option ReadAnswer} {rest : List Turn} (ht : s.turns = .rx a :: rest)
    (hw : s.wiresClear) (h : step s = .next t) : RxMoved s a rest t := by
  rcases step_rx ht hw with ⟨t', ht', hm⟩ | ⟨_, _, _, hf⟩ | ⟨_, _, _, _, _, _, hf⟩
  · cases h.symm.trans ht'
    exact hm
  · cases h.symm.trans hf
  · cases h.symm.trans hf

/-- A TX engine's move that goes on, by what it did. -/
theorem txMoved_of_step {s t : State} {a : Option Answer} {rest : List Turn} (ht : s.turns = .tx a :: rest)
    (hw : s.wiresClear) (h : step s = .next t) : TxMoved s a rest t := by
  rcases step_tx ht hw with ⟨t', ht', hm⟩ | ⟨_, _, hf⟩
  · cases h.symm.trans ht'
    exact hm
  · cases h.symm.trans hf

/-- A CTL engine's move, by what it did. -/
theorem ctlMoved_of_step {s t : State} {a : Option Answer} {rest : List Turn} (ht : s.turns = .ctl a :: rest)
    (hw : s.wiresClear) (h : step s = .next t) : CtlMoved s a rest t := by
  obtain ⟨t', ht', hm⟩ := step_ctl ht hw
  cases h.symm.trans ht'
  exact hm

theorem step_reset {s : State} {rest : List Turn} (ht : s.turns = .reset :: rest) :
    step s = .next (endTurn (powerOn s)) := by
  simp only [step, perform, select, ht, mapNext_next]

/-! ## The invariant -/

/-- Settles O40: at reset both buffers and the queue are empty and no engine is busy. -/
theorem invariantAtReset : Obligations.InvariantAtReset where
  memCanonical := List.Pairwise.nil
  memInBuffers := nofun
  sizeInRange := by decide
  queueBound := by decide
  queuePayload := nofun
  iContBound := by decide
  s1Running := nofun
  s1Length := nofun
  s0Length := nofun
  rxLenBound := by decide
  rxWritten := nofun
  txRunning := nofun
  rxRunning := nofun
  ctlAlone := nofun
  ctlResNone := nofun
  txResNone := nofun
  rxResNone := nofun
  wires := ⟨rfl, rfl, rfl⟩

theorem Inv.endTurn {s : State} (h : Inv s) : Inv (endTurn s) :=
  { h with txRunning := fun hb => { h.txRunning hb with }, wires := ⟨rfl, rfl, rfl⟩ }

theorem inv_powerOn (s : State) : Inv (powerOn s) :=
  { invariantAtReset with txRunning := by simp [powerOn, State.reset] }

/-- The payload bytes of a frame under a legal SIZE (R97). -/
theorem Inv.sizeNb_pos {s : State} (h : Inv s) : 1 ≤ (sizeNb s).toNat ∧ (sizeNb s).toNat ≤ 7 := by
  obtain ⟨h2, h8⟩ := h.sizeInRange
  unfold sizeNb
  generalize s.size = z at h2 h8 ⊢
  revert z
  decide

theorem inv_cmdIssued {s t : State} (h : Inv s) (hi : CmdIssued s t) : Inv t := by
  cases hi with
  | error => exact { h with txRunning := fun hb => { h.txRunning hb with } }
  | ctl _ txIdle rxIdle =>
    exact { h with
      txRunning := fun hb => { h.txRunning hb with }
      ctlAlone := fun _ => ⟨txIdle, rxIdle⟩
      ctlResNone := fun _ => rfl }
  | closeNotOpen _ =>
    exact { h with txRunning := fun hb => { h.txRunning hb with }, ctlAlone := nofun, ctlResNone := nofun }
  | writeNotOpen _ =>
    exact { h with txRunning := nofun, ctlAlone := fun hb => ⟨rfl, (h.ctlAlone hb).2⟩, txResNone := nofun }
  | writeTooLong _ =>
    exact { h with txRunning := nofun, ctlAlone := fun hb => ⟨rfl, (h.ctlAlone hb).2⟩, txResNone := nofun }
  | write ctlIdle session fits message =>
    exact { h with
      txRunning := fun _ =>
        { isOpen := session, nbOfSize := rfl, lengthLegal := fits, offset := (Nat.zero_mul _).symm, remains := .inl rfl
          messageWritten := message }
      ctlAlone := fun hb => by cases ctlIdle.symm.trans hb
      txResNone := fun _ => rfl }
  | readNotOpen rxIdle _ =>
    exact { h with
      s1Running := fun h1 => by cases rxIdle.symm.trans (h.s1Running h1).2
      s1Length := fun _ => Nat.zero_le _
      s0Length := nofun
      rxLenBound := Nat.zero_le _
      rxWritten := nofun
      txRunning := fun hb => { h.txRunning hb with }
      rxRunning := nofun
      ctlAlone := fun hb => ⟨(h.ctlAlone hb).1, rfl⟩
      rxResNone := nofun }
  | read ctlIdle session =>
    exact { h with
      s1Running := nofun
      s1Length := nofun
      s0Length := fun _ _ => rfl
      rxLenBound := Nat.zero_le _
      rxWritten := nofun
      txRunning := fun hb => { h.txRunning hb with }
      rxRunning := fun _ => session
      ctlAlone := fun hb => by cases ctlIdle.symm.trans hb
      rxResNone := fun _ => rfl }

theorem inv_regWrite {s t : State} (h : Inv s) (hw : RegWrite s t) : Inv t := by
  cases hw with
  | cfg v unlocked legal =>
    have hclosed : s.isOpen = false := by
      simp only [← Bool.not_eq_true, cfgLocked_iff, not_or] at unlocked
      simpa using unlocked.1
    exact { h with
      sizeInRange := (sizeLegal_iff _).mp legal
      txRunning := fun hb => by cases hclosed.symm.trans (h.txRunning hb).isOpen }
  | _ => exact { h with txRunning := fun hb => { h.txRunning hb with } }

theorem inv_accessed {s t : State} (h : Inv s) (ha : Accessed s t) : Inv t := by
  cases ha with
  | read d => exact { h with txRunning := fun hb => { h.txRunning hb with } }
  | store txIdle a bs low high =>
    exact { h with
      memCanonical := Memory.writeBytes_wf h.memCanonical a bs
      memInBuffers := fun c hc => (Memory.mem_writeBytes hc).elim (fun hr => .inl ⟨by omega, by omega⟩) (h.memInBuffers c)
      rxWritten := fun k hk => Memory.isSome_read_writeBytes (h.rxWritten k hk)
      txRunning := fun hb => by cases txIdle.symm.trans hb }
  | command t issued => exact inv_cmdIssued h issued
  | register t done => exact inv_regWrite h done

theorem inv_ctlMoved {s t : State} {a : Option Answer} {rest : List Turn} (h : Inv s) (hm : CtlMoved s a rest t) : Inv t := by
  cases hm with
  | still => exact { h with txRunning := fun hb => { h.txRunning hb with } }
  | openFail =>
    exact { h with txRunning := fun hb => { h.txRunning hb with }, ctlAlone := nofun, ctlResNone := nofun }
  | opened =>
    exact { h with
      queueBound := Nat.zero_le _
      queuePayload := nofun
      txRunning := fun hb => { h.txRunning hb with isOpen := rfl }
      rxRunning := fun _ => rfl
      ctlAlone := nofun
      ctlResNone := nofun }
  | closed busy =>
    obtain ⟨htx, hrx⟩ := h.ctlAlone busy
    exact { h with
      queueBound := Nat.zero_le _
      queuePayload := nofun
      txRunning := fun hb => by cases htx.symm.trans hb
      rxRunning := fun hb => by cases hrx.symm.trans hb
      ctlAlone := nofun
      ctlResNone := nofun }

/-- The position of a running WRITE after an accepted frame that is not the last (R101). -/
theorem TxInv.advance {s : State} {l : List TraceEvent} {d : List DevEvent} {rest : List Turn} (h : TxInv s)
    (hnb : 1 ≤ s.txNb.toNat ∧ s.txNb.toNat ≤ 7) (more : s.txNb.toNat < s.txN.toNat - s.txOff.toNat) :
    TxInv { s with
      txOff := s.txOff + s.txNb.setWidth 16, txI := s.txI + 1#8, devLog := d, trace := l, turns := rest } := by
  obtain ⟨hpos, hle⟩ := hnb
  have hlen := h.lengthLegal
  have hoff : (s.txOff + s.txNb.setWidth 16).toNat = s.txOff.toNat + s.txNb.toNat := by
    rw [BitVec.toNat_add, BitVec.toNat_setWidth]
    omega
  have hindex : s.txI.toNat + 1 < 128 := by
    have hstep : (s.txI.toNat + 1) * s.txNb.toNat < 128 * s.txNb.toNat := by
      rw [Nat.add_one_mul, ← h.offset]
      omega
    exact Nat.lt_of_mul_lt_mul_right hstep
  have hi : (s.txI + 1#8).toNat = s.txI.toNat + 1 := by
    rw [BitVec.toNat_add, BitVec.toNat_ofNat]
    omega
  exact { h with
    offset := by
      show (s.txOff + s.txNb.setWidth 16).toNat = (s.txI + 1#8).toNat * s.txNb.toNat
      rw [hoff, hi, Nat.add_one_mul, h.offset]
    remains := .inr (by
      show (s.txOff + s.txNb.setWidth 16).toNat < s.txN.toNat
      omega) }

theorem inv_txMoved {s t : State} {a : Option Answer} {rest : List Turn} (h : Inv s) (hm : TxMoved s a rest t) : Inv t := by
  cases hm with
  | still => exact { h with txRunning := fun hb => { h.txRunning hb with } }
  | advance busy _ more =>
    have ht := h.txRunning busy
    have hnb : 1 ≤ s.txNb.toNat ∧ s.txNb.toNat ≤ 7 := by rw [ht.nbOfSize]; exact h.sizeNb_pos
    exact { h with txRunning := fun _ => ht.advance hnb more }
  | fail | finish =>
    exact { h with txRunning := nofun, ctlAlone := fun hb => ⟨rfl, (h.ctlAlone hb).2⟩, txResNone := nofun }

/-- A memory in which RXBUF holds `n` assembled bytes, with the RX_LEN that counts them: the invariant's own fields about the two,
and what is left of the old memory (R33, R51). -/
structure Stored (s : State) (m : Memory) (n : Nat) : Prop where
  memCanonical : Memory.wf m
  memInBuffers : ∀ c ∈ m, inBuffers c.1
  rxLenBound : (BitVec.ofNat 16 n).toNat ≤ 896
  rxWritten : ∀ k, k < (BitVec.ofNat 16 n).toNat → written .rx k m
  length : (BitVec.ofNat 16 n).toNat = n
  txWritten : ∀ k, written .tx k s.mem → written .tx k m

/-- A store in RXBUF keeps the message of a running WRITE. -/
theorem Stored.txInv {s : State} {m : Memory} {n : Nat} (hs : Stored s m n) (h : TxInv s) : TxInv { s with mem := m } :=
  { h with messageWritten := fun k hk => hs.txWritten k (h.messageWritten k hk) }

/-- Bytes stored in RXBUF at or before RX_LEN leave no gap. -/
theorem Inv.store {s : State} (h : Inv s) {off : Nat} {v : List Byte} (hoff : off ≤ s.rxLen.toNat)
    (fits : off + v.length ≤ 896) : Stored s (Memory.writeBytes s.mem (0x800 + off) v) (off + v.length) := by
  have hlen : (BitVec.ofNat 16 (off + v.length)).toNat = off + v.length := by
    rw [BitVec.toNat_ofNat]
    omega
  refine ⟨Memory.writeBytes_wf h.memCanonical _ v, fun c hc => ?_, hlen.trans_le fits, fun k hk => ?_, hlen,
    fun _ hk => Memory.isSome_read_writeBytes hk⟩
  · exact (Memory.mem_writeBytes hc).elim (fun hr => .inr ⟨by omega, by omega⟩) (h.memInBuffers c)
  · by_cases hlt : k < off
    · exact Memory.isSome_read_writeBytes (h.rxWritten k (by omega))
    · obtain ⟨j, rfl⟩ := Nat.exists_eq_add_of_le (Nat.le_of_not_lt hlt)
      have hj := List.getElem?_eq_getElem (l := v) (i := j) (by omega)
      have hread := Memory.read_writeBytes_inside s.mem (0x800 + off) v hj
      rw [Nat.add_assoc] at hread
      exact Option.isSome_of_eq_some hread

/-- An accepted frame of at most 8 bytes carries at most 7 payload bytes (R72, R132). -/
theorem payload_length_le {f : Frame} (hf : f.length ≤ 8) : (payload f).length ≤ 7 := by
  rw [payload, List.length_drop]
  omega

/-- A continuation that is accepted in S1 expects an index below 128 (R78). -/
theorem iCont_lt_of_contCtl {s : State} {i : BitVec 7} (h : contCtl i = s.iCont) : s.iCont.toNat < 128 := by
  rw [← h, contCtl_toNat]
  exact i.isLt

/-- A popped queue is still one (R37). -/
theorem Inv.pop {s : State} {m : CanMsg} {q : List CanMsg} (h : Inv s) (head : s.q = m :: q) : Inv { s with q := q } := by
  have hq := h.queueBound
  have hp := h.queuePayload
  rw [head] at hq hp
  exact { h with
    queueBound := (Nat.le_succ _).trans hq
    queuePayload := fun d hd => hp d (List.mem_cons_of_mem m hd)
    txRunning := fun hb => { h.txRunning hb with } }

theorem inv_decoded {s t : State} {q : List CanMsg} {rest : List Turn} {f : Frame} (h : Inv s)
    (hpop : Inv { s with q := q }) (busy : s.rxBusy = true) (hf : f.length ≤ 8) (hd : Decoded s q rest f t) : Inv t := by
  have hpay := payload_length_le hf
  cases hd with
  | anomaly _ st n after =>
    have hzero : st = .s0 ∧ n = 0#16 := by
      rcases after with hz | ⟨h0, hst, hn⟩
      · exact hz
      · exact ⟨hst, hn.trans (h.s0Length busy h0)⟩
    obtain ⟨rfl, rfl⟩ := hzero
    exact { hpop with
      s1Running := nofun
      s1Length := nofun
      s0Length := fun _ _ => rfl
      rxLenBound := Nat.zero_le _
      rxWritten := nofun
      txRunning := fun hb => { h.txRunning hb with } }
  | single _ state fits =>
    have hs := h.store (off := 0) (Nat.zero_le _) (v := payload f) (by omega)
    rw [Nat.zero_add] at hs
    exact { hs, hpop with
      s1Running := fun h1 => by cases state.symm.trans h1
      s1Length := fun h1 => by cases state.symm.trans h1
      s0Length := nofun
      txRunning := fun hb => { hs.txInv (h.txRunning hb) with }
      rxRunning := nofun
      ctlAlone := fun hb => ⟨(h.ctlAlone hb).1, rfl⟩
      rxResNone := nofun }
  | start n _ state fits =>
    have hs := h.store (off := 0) (Nat.zero_le _) (v := payload f) (by omega)
    rw [Nat.zero_add] at hs
    exact { hs, hpop with
      iContBound := by show (1#8).toNat ≤ 128; decide
      s1Running := fun _ => ⟨le_refl 1, busy⟩
      s1Length := fun _ => hs.length.trans_le hpay
      s0Length := nofun
      txRunning := fun hb => { hs.txInv (h.txRunning hb) with } }
  | last i _ index state fits done =>
    have hs := h.store (le_refl _) fits
    exact { hs, hpop with
      s1Running := nofun
      s1Length := nofun
      s0Length := nofun
      txRunning := fun hb => { hs.txInv (h.txRunning hb) with }
      rxRunning := nofun
      ctlAlone := fun hb => ⟨(h.ctlAlone hb).1, rfl⟩
      rxResNone := nofun }
  | cont i _ index state fits more =>
    have hs := h.store (le_refl _) fits
    have hlt := iCont_lt_of_contCtl index
    have hnext : (s.iCont + 1#8).toNat = s.iCont.toNat + 1 := by
      rw [BitVec.toNat_add, BitVec.toNat_ofNat]
      omega
    have hlen := h.s1Length state
    exact { hs, hpop with
      iContBound := hnext.trans_le hlt
      s1Running := fun _ => ⟨(Nat.le_add_left 1 _).trans_eq hnext.symm, busy⟩
      s1Length := fun _ => by
        show (BitVec.ofNat 16 (s.rxLen.toNat + (payload f).length)).toNat ≤ 7 * (s.iCont + 1#8).toNat
        rw [hs.length, hnext]
        omega
      s0Length := fun _ h0 => by cases state.symm.trans h0
      txRunning := fun hb => { hs.txInv (h.txRunning hb) with } }

theorem inv_rxMoved {s t : State} {a : Option ReadAnswer} {rest : List Turn} (h : Inv s) (hm : RxMoved s a rest t) : Inv t := by
  cases hm with
  | still => exact { h with txRunning := fun hb => { h.txRunning hb with } }
  | fail =>
    exact { h with
      s1Running := nofun
      s1Length := nofun
      s0Length := nofun
      rxLenBound := Nat.zero_le _
      rxWritten := nofun
      txRunning := fun hb => { h.txRunning hb with }
      rxRunning := nofun
      ctlAlone := fun hb => ⟨(h.ctlAlone hb).1, rfl⟩
      rxResNone := nofun }
  | fetch _ _ ms _ ok =>
    obtain ⟨hq, hp⟩ := (batchOk_iff ms).mp ok
    exact { h with queueBound := hq, queuePayload := hp, txRunning := fun hb => { h.txRunning hb with } }
  | skip _ m q head =>
    exact { h.pop head with txRunning := fun hb => { h.txRunning hb with } }
  | deliver busy m q head _ t decoded =>
    exact inv_decoded h (h.pop head) busy (h.queuePayload m (head ▸ List.mem_cons_self)) decoded

/-- Settles O41: the cases are the move's agent, then what its move did. -/
theorem stepKeepsInvariant : Obligations.StepKeepsInvariant := by
  intro s t h hstep
  cases ht : s.turns with
  | nil =>
    have hidle : select s = .idle := by simp only [select, ht]
    rw [step_of_select_idle hidle] at hstep
    cases hstep
    exact h.endTurn
  | cons u rest =>
    have hhost (hu : u.isHost = true) : Inv t := by
      obtain ⟨s', rfl, rfl | ha⟩ := step_host_next ht hu hstep
      · exact h.endTurn
      · exact (inv_accessed h ha).endTurn
    cases u with
    | host off acc => exact hhost rfl
    | bus addr acc => exact hhost rfl
    | ctl a => exact inv_ctlMoved h (ctlMoved_of_step ht h.wires hstep)
    | tx a => exact inv_txMoved h (txMoved_of_step ht h.wires hstep)
    | rx a => exact inv_rxMoved h (rxMoved_of_step ht h.wires hstep)
    | reset =>
      cases hstep.symm.trans (step_reset ht)
      exact (inv_powerOn s).endTurn

end Sys2Proof.Machine
end

section
/-! PROOFS. What each agent's move leaves unchanged: the configuration, the queue, ERRCNT, and everything a host read and the
trace port can see (10_state.md R25, R34, R35, R37, R45). -/

namespace Sys2Proof.Machine

/-- Settles O50: each case of a CTL engine's move writes only the fields named. -/
theorem ctlMoveFrame : Obligations.CtlMoveFrame := by
  intro s t a rest ht hw h
  cases ctlMoved_of_step ht hw h <;> rfl

theorem turns_of_select_reset {s : State} (h : select s = .reset) : ∃ rest, s.turns = .reset :: rest := by
  cases ht : s.turns with
  | nil => simp only [select, ht, reduceCtorEq] at h
  | cons u rest =>
    cases u with
    | reset => exact ⟨rest, rfl⟩
    | host off acc => simp only [select, ht, reduceCtorEq] at h
    | bus addr acc =>
      simp only [select, ht, selectBus] at h
      split at h <;> cases h
    | ctl a =>
      simp only [select, ht, selectCtl] at h
      split at h <;> cases h
    | tx a =>
      simp only [select, ht, selectTx] at h
      split at h
      · split at h <;> cases h
      · cases h
    | rx a =>
      simp only [select, ht, selectRx] at h
      split at h
      · split at h <;> cases h
      · cases h

/-! ## The configuration of a session -/

/-- The configuration is that of another state (R25). -/
structure SameConfig (s t : State) : Prop where
  size : t.size = s.size
  txExt : t.txExt = s.txExt
  rxExt : t.rxExt = s.rxExt
  txId : t.txId = s.txId
  rxId : t.rxId = s.rxId

theorem Keeps.sameConfig {s t : State} (h : Keeps s t) : SameConfig s t := { h with }

theorem runInstr_keeps {i : Instr} {s t : State} (h : runInstr i s = .next t) : Keeps s t := by
  obtain ⟨s', he, ⟨_, rfl⟩ | ⟨j, _, hj⟩⟩ := runInstr_next h
  · exact exec_keeps he
  · exact (exec_keeps he).trans (exec_keeps hj)

/-- Under the lock no host access changes the configuration (R25). -/
theorem hostAccess_sameConfig {off : BitVec 12} {acc : Access} {s t : State} (locked : cfgLocked s = true)
    (h : hostAccess off acc s = .next t) : SameConfig s t := by
  rcases hostAccess_next h with ⟨_, _, d, rfl⟩ | ⟨bs, _, _, _, _, rfl⟩ | ⟨v, _, _, hx⟩ | ⟨_, hr⟩
  · exact ⟨rfl, rfl, rfl, rfl, rfl⟩
  · exact ⟨rfl, rfl, rfl, rfl, rfl⟩
  · exact (exec_keeps hx).sameConfig
  · cases hr with
    | error | txLen | trace => exact ⟨rfl, rfl, rfl, rfl, rfl⟩
    | cfg _ unlocked | txId _ unlocked | rxId _ unlocked => cases locked.symm.trans unlocked

/-- Settles O53: no instruction writes the configuration, and the lock refuses the host's writes. -/
theorem openSessionKeepsConfiguration : Obligations.OpenSessionKeepsConfiguration := by
  intro s t u rest ht hu hopen h
  have hc : SameConfig s t := by
    rcases step_next h with ⟨_, rfl⟩ | ⟨i, s', _, hr, rfl⟩ | ⟨off, acc, s', _, ha, rfl⟩ | ⟨hs, _⟩
    · exact ⟨rfl, rfl, rfl, rfl, rfl⟩
    · exact { (runInstr_keeps hr).sameConfig with }
    · exact { hostAccess_sameConfig ((cfgLocked_iff s).mpr hopen) ha with }
    · obtain ⟨rest', hr⟩ := turns_of_select_reset hs
      cases ht.symm.trans hr
      exact absurd rfl hu
  exact ⟨hc.size, hc.txExt, hc.rxExt, hc.txId, hc.rxId⟩

/-! ## The queue and ERRCNT -/

/-- No host access touches the queue or ERRCNT (R34, R37). -/
theorem Accessed.q_errCnt {s t : State} (h : Accessed s t) : t.q = s.q ∧ t.errCnt = s.errCnt := by
  cases h with
  | read | store => exact ⟨rfl, rfl⟩
  | command t issued => cases issued <;> exact ⟨rfl, rfl⟩
  | register t done => cases done <;> exact ⟨rfl, rfl⟩

theorem step_host_q_errCnt {s t : State} {u : Turn} {rest : List Turn} (ht : s.turns = u :: rest) (hu : u.isHost = true)
    (h : step s = .next t) : t.q = s.q ∧ t.errCnt = s.errCnt := by
  obtain ⟨s', rfl, rfl | ha⟩ := step_host_next ht hu h
  · exact ⟨rfl, rfl⟩
  · exact ha.q_errCnt

theorem Decoded.q_eq {s t : State} {q : List CanMsg} {rest : List Turn} {f : Frame} (h : Decoded s q rest f t) : t.q = q := by
  cases h <;> rfl

/-- Settles O54: by agent; only the RX and CTL engines' moves and reset write the queue. -/
theorem queueChangesOnlyAtHead : Obligations.QueueChangesOnlyAtHead := by
  intro s t hw h
  cases ht : s.turns with
  | nil =>
    have hidle : select s = .idle := by simp only [select, ht]
    rw [step_of_select_idle hidle] at h
    cases h
    exact .inl rfl
  | cons u rest =>
    cases u with
    | host off acc => exact .inl (step_host_q_errCnt ht rfl h).1
    | bus addr acc => exact .inl (step_host_q_errCnt ht rfl h).1
    | ctl a =>
      cases ctlMoved_of_step ht hw h with
      | still | openFail => exact .inl rfl
      | opened busy _ answer => exact .inr (.inr (.inr (.inl ⟨.ok, rest, by rw [answer], busy, rfl⟩)))
      | closed busy _ d answer => exact .inr (.inr (.inr (.inl ⟨d, rest, by rw [answer], busy, rfl⟩)))
    | tx a => cases txMoved_of_step ht hw h <;> exact .inl rfl
    | rx a =>
      cases rxMoved_of_step ht hw h with
      | still | fail => exact .inl rfl
      | fetch busy empty ms answer => exact .inr (.inr (.inl ⟨ms, rest, by rw [answer], busy, empty, rfl⟩))
      | skip busy m q head => exact .inr (.inl ⟨a, rest, rfl, busy, by simp [head], by rw [head]; rfl⟩)
      | deliver busy m q head _ t decoded =>
        exact .inr (.inl ⟨a, rest, rfl, busy, by simp [head], by rw [decoded.q_eq, head]; rfl⟩)
    | reset =>
      cases h.symm.trans (step_reset ht)
      exact .inr (.inr (.inr (.inr ⟨rest, rfl, rfl⟩)))

/-- What a step adds to ERRCNT: 1 if it decodes a frame as an anomaly (R126). -/
def anomalies (s : State) : Word :=
  match decodesNext s with
  | some i => if isAnomaly i then 1#32 else 0#32
  | none => 0#32

theorem anomalies_of_none {s : State} (h : decodesNext s = none) : anomalies s = 0#32 := by
  simp only [anomalies, h]

theorem anomalies_of_some {s : State} {i : Instr} (h : decodesNext s = some i) :
    anomalies s = if isAnomaly i then 1#32 else 0#32 := by
  simp only [anomalies, h]

theorem errCnt_of_decodesNone {s t : State} (hd : decodesNext s = none) (he : t.errCnt = s.errCnt) :
    t.errCnt = s.errCnt + anomalies s := by
  rw [anomalies_of_none hd, he, BitVec.add_zero]

/-- A decoded frame counts exactly if it is an anomaly (R126). -/
theorem Decoded.errCnt_eq {s t : State} {q : List CanMsg} {rest : List Turn} {f : Frame} (h : Decoded s q rest f t) :
    t.errCnt = s.errCnt + if isAnomaly (rxClass s f) then 1#32 else 0#32 := by
  cases h with
  | anomaly kind => rw [kind]; rfl
  | single kind | start _ kind | last _ kind | cont _ kind => rw [kind]; exact (BitVec.add_zero _).symm

theorem decodesNext_rx_cons {s : State} {a : Option ReadAnswer} {rest : List Turn} {m : CanMsg} {q : List CanMsg}
    (ht : s.turns = .rx a :: rest) (head : s.q = m :: q) :
    decodesNext s = if s.rxBusy && passes s m then some (rxClass s m.data) else none := by
  simp only [decodesNext, ht, head]

theorem decodesNext_rx_nil {s : State} {a : Option ReadAnswer} {rest : List Turn} (ht : s.turns = .rx a :: rest)
    (empty : s.q = []) : decodesNext s = none := by
  simp only [decodesNext, ht, empty]

theorem decodesNext_rx_idle {s : State} {a : Option ReadAnswer} {rest : List Turn} (ht : s.turns = .rx a :: rest)
    (idle : s.rxBusy = false) : decodesNext s = none := by
  cases hq : s.q with
  | nil => exact decodesNext_rx_nil ht hq
  | cons m q => rw [decodesNext_rx_cons ht hq, idle]; rfl

/-- Settles O44: by agent; only the decode of a delivered frame writes ERRCNT. -/
theorem errCntCountsAnomalies : Obligations.ErrCntCountsAnomalies := by
  intro s t u rest hw ht hu h
  show t.errCnt = s.errCnt + anomalies s
  cases u with
  | host off acc => exact errCnt_of_decodesNone (by simp only [decodesNext, ht]) (step_host_q_errCnt ht rfl h).2
  | bus addr acc => exact errCnt_of_decodesNone (by simp only [decodesNext, ht]) (step_host_q_errCnt ht rfl h).2
  | ctl a =>
    refine errCnt_of_decodesNone (by simp only [decodesNext, ht]) ?_
    cases ctlMoved_of_step ht hw h <;> rfl
  | tx a =>
    refine errCnt_of_decodesNone (by simp only [decodesNext, ht]) ?_
    cases txMoved_of_step ht hw h <;> rfl
  | rx a =>
    cases rxMoved_of_step ht hw h with
    | still why =>
      exact errCnt_of_decodesNone (why.elim (decodesNext_rx_idle ht) fun hq => decodesNext_rx_nil ht hq.1) rfl
    | fail _ empty | fetch _ empty => exact errCnt_of_decodesNone (decodesNext_rx_nil ht empty) rfl
    | skip _ m q head verdict =>
      refine errCnt_of_decodesNone ?_ rfl
      rw [decodesNext_rx_cons ht head, verdict, Bool.and_false]
      rfl
    | deliver busy m q head verdict t decoded =>
      have hd : decodesNext s = some (rxClass s m.data) := by
        rw [decodesNext_rx_cons ht head, busy, verdict]
        rfl
      rw [anomalies_of_some hd]
      exact decoded.errCnt_eq
  | reset => exact absurd rfl hu

/-! ## Host reads and writes -/

/-- A write of a register that takes none is a bus error (R157). -/
theorem writeReg_readOnly {r : Reg} (v : Word) (s : State) (hr : r ∈ [.status, .txCount, .rxLen, .errCnt, .rxFsm, .qLevel]) :
    writeReg r v s = .fault .readOnly := by
  simp only [List.mem_cons, List.not_mem_nil, or_false] at hr
  rcases hr with rfl | rfl | rfl | rfl | rfl | rfl <;> rfl

/-- Each word of the register block is read-only or one of the six that take writes (R21). -/
theorem regAt_readOnly_or_writable : ∀ k < 12,
    regAt k ∈ [Reg.status, .txCount, .rxLen, .errCnt, .rxFsm, .qLevel] ∨
    BitVec.ofNat 12 (4 * k) ∈ [0x000#12, 0x008#12, 0x00C#12, 0x010#12, 0x014#12, 0x028#12] := by decide

/-- A register write that goes on is to one of the six registers that take writes (R21, R157). -/
theorem writeReg_writable {off : BitVec 12} {v : Word} {s t : State} (hoff : off.toNat < 0x030) (ha : aligned4 off = true)
    (h : writeReg (regAt (off.toNat / 4)) v s = .next t) :
    off ∈ [0x000#12, 0x008#12, 0x00C#12, 0x010#12, 0x014#12, 0x028#12] := by
  rw [aligned4_iff] at ha
  rcases regAt_readOnly_or_writable (off.toNat / 4) (by omega) with hro | hw
  · rw [writeReg_readOnly v s hro] at h
    cases h
  · rwa [Nat.mul_div_cancel' (Nat.dvd_of_mod_eq_zero ha), BitVec.ofNat_toNat, BitVec.setWidth_eq] at hw

/-- The offsets at which a host write goes on (R45). -/
theorem hostAccess_writable {off : BitVec 12} {acc : Access} {s t : State} (hacc : acc.isWrite = true)
    (h : hostAccess off acc s = .next t) :
    off ∈ [0x000#12, 0x008#12, 0x00C#12, 0x010#12, 0x014#12, 0x028#12] ∨ (0x400 ≤ off.toNat ∧ off.toNat < 0x780) := by
  unfold hostAccess at h
  rcases region_cases off with ⟨hlo, hr⟩ | ⟨hlo, hhi, _⟩ | ⟨_, _, hr⟩ | ⟨_, hr⟩
  · rw [hr] at h
    cases acc with
    | r8 | r16 | r32 => cases hacc
    | w8 | w16 => cases h
    | w32 v =>
      simp only [accessReg] at h
      split at h
      · next ha => exact .inl (writeReg_writable hlo ha h)
      · cases h
  · exact .inr ⟨hlo, hhi⟩
  · rw [hr] at h
    cases acc with
    | r8 | r16 | r32 => cases hacc
    | w8 | w16 => cases h
    | w32 v =>
      simp only [accessBuf] at h
      split at h <;> cases h
  · rw [hr] at h
    cases h

/-- A host read that goes on only returns data (R45). -/
theorem hostAccess_read {off : BitVec 12} {acc : Access} {s t : State} (hacc : acc.isWrite = false)
    (h : hostAccess off acc s = .next t) : ∃ d, t = { s with busOut := s.busOut ++ [d] } := by
  rcases hostAccess_next h with ⟨_, _, hd⟩ | ⟨_, ⟨v, rfl, _⟩ | ⟨v, rfl, _⟩, _⟩ | ⟨v, rfl, _⟩ | ⟨⟨v, rfl⟩, _⟩
  · exact hd
  all_goals cases hacc

/-- Settles O31: the step is the access at the offset, then the end of the move. -/
theorem hostReadsHaveNoSideEffect : Obligations.HostReadsHaveNoSideEffect := by
  intro s off acc rest t ht hw h
  have hstep : step s = mapNext endTurn (hostAccess off acc s) := by simp only [step, perform, select, ht]
  obtain ⟨s', ha, rfl⟩ := mapNext_eq_next.mp (hstep.symm.trans h)
  refine ⟨fun hacc => ?_, fun hacc => hostAccess_writable hacc ha⟩
  obtain ⟨d, rfl⟩ := hostAccess_read hacc ha
  obtain rfl : s.turns.tail = rest := by rw [ht, List.tail_cons]
  exact ⟨d, endTurn_clear (s := { s with busOut := s.busOut ++ [d] }) hw⟩

end Sys2Proof.Machine
end

section
/-! PROOFS. Tracing alters no frame, state or result (10_state.md R35, 60_exceptions.md R166). -/

namespace Sys2Proof.Machine

/-- A state with another TRACE.EN, other trace events and other data returned to the host. -/
def withTrace (e : Bool) (l : List TraceEvent) (d : List BusData) (s : State) : State :=
  { s with traceEn := e, trace := l, busOut := d }

/-- The second outcome is the first but for TRACE.EN, the trace events and the data returned to the host. -/
def SameButTrace (o o' : Out) : Prop := ∃ e l d, o' = mapNext (withTrace e l d) o

section
variable (e : Bool) (l : List TraceEvent) (d : List BusData) (s : State)

theorem frameWrite_withTrace : frameWrite (withTrace e l d s) = withTrace e l d (frameWrite s) := by
  unfold frameWrite
  rw [show (withTrace e l d s).txFrame = s.txFrame from rfl, show writeAnswer (withTrace e l d s) = writeAnswer s from rfl]
  split <;> rfl

theorem rxContinue_withTrace : rxContinue (withTrace e l d s) = withTrace e l d (rxContinue s) := by
  unfold rxContinue
  rw [show (withTrace e l d s).iCont = s.iCont from rfl, show (withTrace e l d s).nCont = s.nCont from rfl]
  split <;> rfl

theorem sameButTrace_txSend (kind : TraceKind) (ctl : Byte) (n : Nat) {done : State → State}
    (hd : ∀ k u, done (withTrace e k d u) = withTrace e k d (done u)) :
    SameButTrace (txSend kind ctl n done s) (txSend kind ctl n done (withTrace e l d s)) := by
  unfold txSend
  rw [show memRead .tx (withTrace e l d s).txOff.toNat n (withTrace e l d s).mem = memRead .tx s.txOff.toNat n s.mem from rfl]
  cases memRead .tx s.txOff.toNat n s.mem with
  | none => exact ⟨e, l, d, rfl⟩
  | some bytes =>
    have hsent : frameWrite { withTrace e l d s with txFrame := some (ctl :: bytes), txRet := none } =
        withTrace e l d (frameWrite { s with txFrame := some (ctl :: bytes), txRet := none }) :=
      frameWrite_withTrace e l d { s with txFrame := some (ctl :: bytes), txRet := none }
    simp only [hsent]
    generalize frameWrite { s with txFrame := some (ctl :: bytes), txRet := none } = sent
    rw [show (withTrace e l d sent).txRet = sent.txRet from rfl]
    cases sent.txRet with
    | none => exact ⟨e, l, d, rfl⟩
    | some answer =>
      cases answer with
      | err => exact ⟨e, l, d, rfl⟩
      | ok => exact ⟨e, _, d, congrArg Host.Outcome.next (hd _ (emitTrace .tx kind (ctl :: bytes) (clearTxWires sent)))⟩

theorem sameButTrace_rxAccept (kind : TraceKind) (off : Nat) {done : State → State}
    (hd : ∀ k u, done (withTrace e k d u) = withTrace e k d (done u)) :
    SameButTrace (rxAccept kind off done s) (rxAccept kind off done (withTrace e l d s)) := by
  unfold rxAccept
  rw [show memWrite .rx off (payload (delivered (withTrace e l d s))) (withTrace e l d s).mem =
    memWrite .rx off (payload (delivered s)) s.mem from rfl]
  cases memWrite .rx off (payload (delivered s)) s.mem with
  | none => exact ⟨e, l, d, rfl⟩
  | some m => exact ⟨e, _, d, congrArg Host.Outcome.next (hd _ (emitTrace .rx kind (delivered s) { s with
      mem := m, rxLen := BitVec.ofNat 16 (off + (payload (delivered s)).length), rxFrame := none }))⟩

theorem execCmdOpen_withTrace : execCmdOpen (withTrace e l d s) = mapNext (withTrace e l d) (execCmdOpen s) := by
  unfold execCmdOpen openEngine
  rw [show ctlEngineMoves (withTrace e l d s) = ctlEngineMoves s from rfl,
    show openIllegal (withTrace e l d s) = openIllegal s from rfl, show ctlAnswer (withTrace e l d s) = ctlAnswer s from rfl]
  split
  · rcases ctlAnswer s with _ | _ | _ <;> rfl
  · split <;> rfl

theorem execCmdClose_withTrace : execCmdClose (withTrace e l d s) = mapNext (withTrace e l d) (execCmdClose s) := by
  unfold execCmdClose closeEngine
  rw [show ctlEngineMoves (withTrace e l d s) = ctlEngineMoves s from rfl,
    show closeIllegal (withTrace e l d s) = closeIllegal s from rfl, show ctlAnswer (withTrace e l d s) = ctlAnswer s from rfl,
    show (withTrace e l d s).isOpen = s.isOpen from rfl]
  split
  · rcases ctlAnswer s with _ | _ | _ <;> rfl
  · split
    · rfl
    · split <;> rfl

theorem execCmdWrite_withTrace : execCmdWrite (withTrace e l d s) = mapNext (withTrace e l d) (execCmdWrite s) := by
  unfold execCmdWrite
  rw [show writeIllegal (withTrace e l d s) = writeIllegal s from rfl, show (withTrace e l d s).isOpen = s.isOpen from rfl,
    show (withTrace e l d s).txLen = s.txLen from rfl, show sizeNb (withTrace e l d s) = sizeNb s from rfl,
    show (withTrace e l d s).mem = s.mem from rfl]
  split
  · rfl
  · split
    · rfl
    · split
      · rfl
      · cases memRead .tx 0 s.txLen.toNat s.mem <;> rfl

theorem execCmdRead_withTrace : execCmdRead (withTrace e l d s) = mapNext (withTrace e l d) (execCmdRead s) := by
  unfold execCmdRead
  rw [show readIllegal (withTrace e l d s) = readIllegal s from rfl, show (withTrace e l d s).isOpen = s.isOpen from rfl]
  split
  · rfl
  · split <;> rfl

theorem execDevqFetch_withTrace : execDevqFetch (withTrace e l d s) = mapNext (withTrace e l d) (execDevqFetch s) := by
  unfold execDevqFetch
  rw [show readAnswer (withTrace e l d s) = readAnswer s from rfl]
  rcases readAnswer s with _ | _ | ms
  · rfl
  · rfl
  · dsimp only
    split
    · rfl
    · split <;> rfl

/-- Every instruction runs alike under any tracing. -/
theorem sameButTrace_exec (i : Instr) : SameButTrace (exec i s) (exec i (withTrace e l d s)) := by
  cases i with
  | cmdOpen => exact ⟨e, l, d, execCmdOpen_withTrace e l d s⟩
  | cmdClose => exact ⟨e, l, d, execCmdClose_withTrace e l d s⟩
  | cmdWrite => exact ⟨e, l, d, execCmdWrite_withTrace e l d s⟩
  | cmdRead => exact ⟨e, l, d, execCmdRead_withTrace e l d s⟩
  | devqFetch => exact ⟨e, l, d, execDevqFetch_withTrace e l d s⟩
  | cantxFrame => exact ⟨e, l, d, congrArg Host.Outcome.next (frameWrite_withTrace e l d s)⟩
  | cmdReserved | fltStatus | fltExtMismatch | fltIdMismatch | fltMatch => exact ⟨e, l, d, rfl⟩
  | txSingle => exact sameButTrace_txSend e l d s _ _ _ fun _ _ => rfl
  | txStart n => exact sameButTrace_txSend e l d s _ _ _ fun _ _ => rfl
  | txCont k => exact sameButTrace_txSend e l d s _ _ _ fun _ _ => rfl
  | txContLast k => exact sameButTrace_txSend e l d s _ _ _ fun _ _ => rfl
  | rxZeroLen | rxMalformed | rxOutOfSeq => exact ⟨e, _, d, rfl⟩
  | rxSingle => exact sameButTrace_rxAccept e l d s _ _ fun _ _ => rfl
  | rxStart n => exact sameButTrace_rxAccept e l d s _ _ fun _ _ => rfl
  | rxCont k => exact sameButTrace_rxAccept e l d s _ _ fun _ u => rxContinue_withTrace e _ d u

theorem sameButTrace_runInstr (i : Instr) : SameButTrace (runInstr i s) (runInstr i (withTrace e l d s)) := by
  obtain ⟨e', l', d', h⟩ := sameButTrace_exec e l d s i
  unfold runInstr
  rw [h]
  cases exec i s with
  | fault r => exact ⟨e, l, d, rfl⟩
  | refused r => exact ⟨e, l, d, rfl⟩
  | next u =>
    have hf : follow i (withTrace e' l' d' u) = follow i u := by cases i <;> rfl
    simp only [mapNext_next, hf]
    cases follow i u with
    | none => exact ⟨e', l', d', rfl⟩
    | some j => exact sameButTrace_exec e' l' d' u j

theorem sameButTrace_writeReg (r : Reg) (v : Word) : SameButTrace (writeReg r v s) (writeReg r v (withTrace e l d s)) := by
  have hc : cfgLocked (withTrace e l d s) = cfgLocked s := rfl
  cases r with
  | cmd => exact sameButTrace_exec e l d s (decodeCmd v)
  | cfg =>
    refine ⟨e, l, d, ?_⟩
    simp only [writeReg, writeCfg, hc]
    split <;> rfl
  | txId | rxId =>
    refine ⟨e, l, d, ?_⟩
    simp only [writeReg, lockedWrite, hc]
    split <;> rfl
  | txLen =>
    refine ⟨e, l, d, ?_⟩
    simp only [writeReg, writeTxLen, show (withTrace e l d s).txBusy = s.txBusy from rfl]
    split <;> rfl
  | trace => exact ⟨v.getLsbD 0, l, d, rfl⟩
  | status | txCount | rxLen | errCnt | rxFsm | qLevel => exact ⟨e, l, d, rfl⟩

theorem sameButTrace_accessReg (r : Reg) (off : BitVec 12) (acc : Access) :
    SameButTrace (accessReg r off acc s) (accessReg r off acc (withTrace e l d s)) := by
  cases acc with
  | r8 | r16 | w8 | w16 => exact ⟨e, l, d, rfl⟩
  | r32 =>
    dsimp only [accessReg]
    split
    · exact ⟨e, l, _, rfl⟩
    · exact ⟨e, l, d, rfl⟩
  | w32 v =>
    dsimp only [accessReg]
    split
    · exact sameButTrace_writeReg e l d s r v
    · exact ⟨e, l, d, rfl⟩

theorem sameButTrace_readBuf8 (b : Buf) (off : BitVec 12) : SameButTrace (readBuf8 b off s) (readBuf8 b off (withTrace e l d s)) := by
  unfold readBuf8
  rw [show readHazard b (withTrace e l d s) = readHazard b s from rfl, show (withTrace e l d s).mem = s.mem from rfl]
  split
  · exact ⟨e, l, d, rfl⟩
  · cases Memory.read s.mem off.toNat with
    | none => exact ⟨e, l, d, rfl⟩
    | some v => exact ⟨e, l, _, rfl⟩

theorem sameButTrace_readBuf32 (b : Buf) (off : BitVec 12) :
    SameButTrace (readBuf32 b off s) (readBuf32 b off (withTrace e l d s)) := by
  unfold readBuf32
  rw [show readHazard b (withTrace e l d s) = readHazard b s from rfl, show (withTrace e l d s).mem = s.mem from rfl]
  split
  · exact ⟨e, l, d, rfl⟩
  · rcases readWord_cases s.mem off.toNat with ⟨b0, b1, b2, b3, hb, _⟩ | ⟨hn, _⟩
    · rw [hb]; exact ⟨e, l, _, rfl⟩
    · rw [hn]; exact ⟨e, l, d, rfl⟩

theorem writeBuf_withTrace (b : Buf) (off : BitVec 12) (v : List Byte) :
    writeBuf b off v (withTrace e l d s) = mapNext (withTrace e l d) (writeBuf b off v s) := by
  cases b with
  | rx => rfl
  | tx =>
    simp only [writeBuf, show (withTrace e l d s).txBusy = s.txBusy from rfl]
    split <;> rfl

theorem sameButTrace_accessBuf (b : Buf) (off : BitVec 12) (acc : Access) :
    SameButTrace (accessBuf b off acc s) (accessBuf b off acc (withTrace e l d s)) := by
  cases acc with
  | r8 => exact sameButTrace_readBuf8 e l d s b off
  | w8 v => exact ⟨e, l, d, writeBuf_withTrace e l d s b off [v]⟩
  | r16 | w16 => exact ⟨e, l, d, rfl⟩
  | r32 =>
    dsimp only [accessBuf]
    split
    · exact sameButTrace_readBuf32 e l d s b off
    · exact ⟨e, l, d, rfl⟩
  | w32 v =>
    dsimp only [accessBuf]
    split
    · exact ⟨e, l, d, writeBuf_withTrace e l d s b off (wordBytes v)⟩
    · exact ⟨e, l, d, rfl⟩

theorem sameButTrace_hostAccess (off : BitVec 12) (acc : Access) :
    SameButTrace (hostAccess off acc s) (hostAccess off acc (withTrace e l d s)) := by
  unfold hostAccess
  cases region off with
  | reg r => exact sameButTrace_accessReg e l d s r off acc
  | buf b => exact sameButTrace_accessBuf e l d s b off acc
  | reserved => exact ⟨e, l, d, rfl⟩

theorem sameButTrace_perform : SameButTrace (perform s) (perform (withTrace e l d s)) := by
  unfold perform
  rw [show select (withTrace e l d s) = select s from rfl]
  cases select s with
  | idle => exact ⟨e, l, d, rfl⟩
  | run i => exact sameButTrace_runInstr e l d s i
  | access off acc => exact sameButTrace_hostAccess e l d s off acc
  | reset => exact ⟨false, [], d, rfl⟩

end

/-- Settles O46: the step runs alike under any tracing, the end of it included. -/
theorem traceAltersNothing : Obligations.TraceAltersNothing := by
  intro s t e l h
  obtain ⟨u, hu, rfl⟩ := mapNext_eq_next.mp h
  obtain ⟨e', l', d', hp⟩ := sameButTrace_perform e l s.busOut s
  rw [hu] at hp
  exact ⟨endTurn (withTrace e' l' d' u), congrArg (mapNext endTurn) hp, rfl⟩

end Sys2Proof.Machine
end

section
/-! PROOFS. The encodings of a decoded word, the registers the host reads and writes, the block's addresses, and reset
(10_state.md R21 to R44, 30_encoding.md R72 to R85). -/

namespace Sys2Proof

/-! ## The encoding of a decoded word -/

/-- The code of a command word in a word of its own (10_state.md R22). -/
theorem cmdWord_code_eq_and (v : Word) : (0#24 ++ v.extractLsb' 0 8 : Word) = v &&& 0xFF#32 := by
  apply BitVec.eq_of_toNat_eq
  rw [cmdWord_toNat, BitVec.extractLsb'_toNat, BitVec.toNat_and]
  exact (Nat.and_two_pow_sub_one_eq_mod v.toNat 8).symm

theorem encode_decodeCode (code : Byte) : encode (decodeCode code) = .cmd (0#24 ++ code) := by
  rcases decodeCode_cases code with ⟨rfl, e⟩ | ⟨rfl, e⟩ | ⟨rfl, e⟩ | ⟨rfl, e⟩ | ⟨_, _, _, _, e⟩ <;> rw [e] <;> rfl

theorem fits_decodeCode (c : DecodeCtx) (code : Byte) : c.fits (decodeCode code) = true := by
  rcases decodeCode_cases code with ⟨_, e⟩ | ⟨_, e⟩ | ⟨_, e⟩ | ⟨_, e⟩ | ⟨_, _, _, _, e⟩ <;> rw [e] <;> rfl

/-- A decoded transmitted control byte is its instruction's word, under the condition of its row (R75, R77, R100). -/
theorem decodeTx_ok {c : DecodeCtx} {ctl : Byte} {i : Instr} (h : decodeTx c.txFinal ctl = .ok i) :
    c.fits i = true ∧ encode i = .segTx ctl := by
  unfold decodeTx at h
  cases hs : ctlStart ctl with
  | true =>
    simp only [hs, if_true] at h
    split_ifs at h with hf
    cases h
    exact ⟨by simpa [DecodeCtx.fits] using hf, congrArg Encoded.segTx (startCtl_ctlLow hs)⟩
  | false =>
    simp only [hs, Bool.false_eq_true, if_false] at h
    have hcont : Encoded.segTx (contCtl (ctlLow ctl)) = .segTx ctl := congrArg Encoded.segTx (contCtl_ctlLow hs)
    split_ifs at h with hz hf hf
    · cases h
      exact ⟨hf, congrArg Encoded.segTx hz.symm⟩
    · cases h
      exact ⟨hf, hcont⟩
    · cases h
      exact ⟨by simpa [DecodeCtx.fits] using hf, hcont⟩

/-- The class of a non-empty frame has the frame's decode word, under the condition of its row (R78, R79). -/
theorem decodeCtl_word (c : DecodeCtx) (st : RxState) (ctl : Byte) :
    c.fits (decodeCtl c.iCont st ctl) = true ∧ encode (decodeCtl c.iCont st ctl) = .segRx (dw st true ctl) := by
  cases st with
  | s0 =>
    simp only [decodeCtl]
    split_ifs with hs hz
    · exact ⟨rfl, congrArg (fun b => Encoded.segRx (dw .s0 true b)) (startCtl_ctlLow hs)⟩
    · rw [hz]
      exact ⟨rfl, rfl⟩
    · exact ⟨rfl, congrArg (fun b => Encoded.segRx (dw .s0 true b)) (contCtl_ctlLow (by simpa using hs))⟩
  | s1 =>
    simp only [decodeCtl]
    split_ifs with hc
    · obtain ⟨hs, hi⟩ := hc
      have hctl := contCtl_ctlLow hs
      exact ⟨beq_iff_eq.mpr (hctl.trans hi), congrArg (fun b => Encoded.segRx (dw .s1 true b)) hctl⟩
    · refine ⟨?_, rfl⟩
      cases hs : ctlStart ctl <;> simp_all [DecodeCtx.fits]

theorem decodeRx_ok {c : DecodeCtx} {w : BitVec 10} {i : Instr} (h : decodeRx c.iCont w = .ok i) :
    c.fits i = true ∧ encode i = .segRx w := by
  have hw := dw_fields w
  simp only [decodeRx] at h
  split_ifs at h with hne hz
  · cases h
    rw [hne] at hw
    rw [← hw]
    simp only [dw_ctl, dw_state]
    exact decodeCtl_word c _ _
  · cases h
    rw [hz, Bool.not_eq_true _ |>.mp hne] at hw
    exact ⟨rfl, congrArg Encoded.segRx hw⟩

/-- The filter class of a word has that word, under the condition of its row (R81). -/
theorem decodeFlt_word (c : DecodeCtx) (w : BitVec 34) :
    c.fits (decodeFlt c.rxExt c.rxId w) = true ∧ encode (decodeFlt c.rxExt c.rxId w) = .canf w := by
  have hw := fw_fields w
  simp only [decodeFlt]
  split_ifs with hs he hi
  · rw [hs] at hw
    exact ⟨rfl, congrArg Encoded.canf hw⟩
  all_goals
    rw [Bool.not_eq_true _ |>.mp hs] at hw
    exact ⟨by simp_all [DecodeCtx.fits], congrArg Encoded.canf hw⟩

/-- Settles O2: format by format. -/
theorem encodeInvertsDecode : Obligations.EncodeInvertsDecode := by
  intro c w i h
  cases w with
  | cmd v =>
    cases h
    exact ⟨fits_decodeCode c _, (encode_decodeCode _).trans (congrArg Encoded.cmd (cmdWord_code_eq_and v))⟩
  | segTx ctl => exact decodeTx_ok h
  | segRx d => exact decodeRx_ok h
  | canf f =>
    cases h
    exact decodeFlt_word c f
  | devq | cantx =>
    cases h
    exact ⟨rfl, rfl⟩

/-- The low bits of a word, as a number cut to their width. -/
theorem extractLsb'_zero_eq_ofNat (v : Word) (n : Nat) : v.extractLsb' 0 n = BitVec.ofNat n v.toNat := by
  apply BitVec.eq_of_toNat_eq
  rw [BitVec.extractLsb'_toNat, BitVec.toNat_ofNat, Nat.shiftRight_zero]

/-- Settles O6: the code is the low byte of the word. -/
theorem commandCodeTable : Obligations.CommandCodeTable := by
  intro v
  have hcode := extractLsb'_zero_eq_ofNat v 8
  have hnum : v.toNat % 256 = (v.extractLsb' 0 8).toNat := by rw [hcode, BitVec.toNat_ofNat]
  have hdec : decodeCmd v = decodeCode (v.extractLsb' 0 8) := rfl
  rw [hdec, hnum, ← hcode]
  rcases decodeCode_cases (v.extractLsb' 0 8) with ⟨hc, e⟩ | ⟨hc, e⟩ | ⟨hc, e⟩ | ⟨hc, e⟩ | ⟨h1, h2, h3, h4, e⟩
  on_goal 5 =>
    rw [e]
    exact ⟨fun h => absurd (BitVec.eq_of_toNat_eq h) h1, fun h => absurd (BitVec.eq_of_toNat_eq h) h2,
      fun h => absurd (BitVec.eq_of_toNat_eq h) h3, fun h => absurd (BitVec.eq_of_toNat_eq h) h4, fun _ _ _ _ => rfl⟩
  all_goals
    rw [e, hc]
    simp

end Sys2Proof

namespace Sys2Proof.Machine

/-! ## The registers the host reads and writes -/

/-- Settles O38: the reset state, field by field. -/
theorem resetState : Obligations.ResetState := by
  refine ⟨?status, ?cfg, ?fsm, rfl, rfl, rfl, rfl, rfl, rfl, rfl, rfl, ?level, rfl, rfl, rfl, rfl, fun _ => rfl, rfl⟩
  all_goals decide

theorem append_toNat {m n : Nat} (a : BitVec m) (b : BitVec n) : (a ++ b).toNat = a.toNat * 2 ^ n + b.toNat := by
  rw [BitVec.toNat_append, ← Nat.shiftLeft_add_eq_or_of_lt b.isLt, Nat.shiftLeft_eq]

theorem halfWord_eq_ofNat (v : BitVec 16) : halfWord v = BitVec.ofNat 32 v.toNat := by
  apply BitVec.eq_of_toNat_eq
  simp only [halfWord, append_toNat, BitVec.toNat_ofNat]
  omega

/-- QLEVEL is the queue's length as long as 7 bits hold it (R36, R37). -/
theorem qLevelWord_eq_ofNat {s : State} (h : s.q.length ≤ 64) : qLevelWord s = BitVec.ofNat 32 s.q.length := by
  apply BitVec.eq_of_toNat_eq
  simp only [qLevelWord, append_toNat, BitVec.toNat_ofNat]
  omega

/-- A word read of a register, at the register's own offset (R55). -/
theorem hostAccess_readReg {off : BitVec 12} {s : State} {v : Word} (r : Reg) (hr : region off = .reg r)
    (ha : aligned4 off = true) (hv : readReg r s = v) :
    hostAccess off .r32 s = .next { s with busOut := s.busOut ++ [.word v] } := by
  simp only [hostAccess, hr, accessReg, ha, if_true, hv]
  rfl

/-- Settles O32: each offset's register, and the word it reads as. -/
theorem registerReadValues : Obligations.RegisterReadValues := by
  intro s
  refine ⟨?cmd, ?txId, ?rxId, ?txLen, ?txCount, ?rxLen, ?errCnt, fun h => ?qLevel⟩
  case cmd => exact hostAccess_readReg .cmd rfl rfl rfl
  case txId => exact hostAccess_readReg .txId rfl rfl rfl
  case rxId => exact hostAccess_readReg .rxId rfl rfl rfl
  case txLen => exact hostAccess_readReg .txLen rfl rfl (halfWord_eq_ofNat s.txLen)
  case txCount => exact hostAccess_readReg .txCount rfl rfl (halfWord_eq_ofNat s.txCount)
  case rxLen => exact hostAccess_readReg .rxLen rfl rfl (halfWord_eq_ofNat s.rxLen)
  case errCnt => exact hostAccess_readReg .errCnt rfl rfl rfl
  case qLevel => exact hostAccess_readReg .qLevel rfl rfl (qLevelWord_eq_ofNat h)

theorem flagBit_toNat (b : Bool) : (flagBit b).toNat = b.toNat := BitVec.toNat_ofBool b

theorem statusWord_toNat (s : State) : (statusWord s).toNat =
    s.isOpen.toNat + 2 * s.ctlBusy.toNat + 4 * s.txBusy.toNat + 8 * s.rxBusy.toNat + 16 * s.cmdErr.toNat +
      2 ^ 8 * s.ctlRes.code.toNat + 2 ^ 12 * s.txRes.code.toNat + 2 ^ 16 * s.rxRes.code.toNat := by
  simp only [statusWord, append_toNat, flagBit_toNat, BitVec.toNat_ofNat]
  omega

theorem cfgWord_toNat (s : State) :
    (cfgWord s).toNat = s.size.toNat + 2 ^ 8 * s.txExt.toNat + 2 ^ 9 * s.rxExt.toNat := by
  simp only [cfgWord, append_toNat, flagBit_toNat, BitVec.toNat_ofNat]
  omega

theorem rxFsmWord_toNat (s : State) :
    (rxFsmWord s).toNat = (if s.rxState = .s1 then 1 else 0) + 2 ^ 8 * s.iCont.toNat + 2 ^ 16 * s.nCont.toNat := by
  have hbit : s.rxState.bit.toNat = if s.rxState = .s1 then 1 else 0 := by cases s.rxState <;> rfl
  simp only [rxFsmWord, append_toNat, hbit, BitVec.toNat_ofNat]
  omega

theorem traceWord_toNat (s : State) : (traceWord s).toNat = s.traceEn.toNat := by
  simp only [traceWord, append_toNat, flagBit_toNat, BitVec.toNat_ofNat]
  omega

/-- Settles O33: the codes by computation, each packed register by the numbers of its fields. -/
theorem packedRegisterLayout : Obligations.PackedRegisterLayout := by
  refine ⟨by decide, fun s => ⟨?status, ?cfg, ?fsm, ?trace⟩⟩
  case status => exact ⟨_, hostAccess_readReg .status rfl rfl rfl, statusWord_toNat s⟩
  case cfg => exact ⟨_, hostAccess_readReg .cfg rfl rfl rfl, cfgWord_toNat s⟩
  case fsm => exact ⟨_, hostAccess_readReg .rxFsm rfl rfl rfl, rxFsmWord_toNat s⟩
  case trace => exact ⟨_, hostAccess_readReg .trace rfl rfl rfl, traceWord_toNat s⟩

/-- A word write of a register, at the register's own offset (R55). -/
theorem hostAccess_writeReg {off : BitVec 12} (s : State) (v : Word) (r : Reg) (hr : region off = .reg r)
    (ha : aligned4 off = true) : hostAccess off (.w32 v) s = writeReg r v s := by
  simp only [hostAccess, hr, accessReg, ha, if_true]

theorem cfgLocked_eq_false {s : State} (hopen : s.isOpen = false) (hctl : s.ctlBusy = false) : cfgLocked s = false := by
  simp only [cfgLocked, hopen, hctl, Bool.or_false]

/-- Settles O34: each register's write, its lock or busy bit clear. -/
theorem registerWrites : Obligations.RegisterWrites := by
  intro s v
  refine ⟨fun ho hc hlo hhi => ?cfg, fun ho hc => ?txId, fun ho hc => ?rxId, fun hb => ?txLen, ?trace⟩
  case cfg =>
    have hsize := extractLsb'_zero_eq_ofNat v 4
    have hlegal : sizeLegal (BitVec.ofNat 4 v.toNat) = true :=
      (sizeLegal_iff _).mpr (by rw [BitVec.toNat_ofNat]; exact ⟨hlo, hhi⟩)
    rw [hostAccess_writeReg s v .cfg rfl rfl]
    simp only [writeReg, writeCfg, cfgLocked_eq_false ho hc, hsize, hlegal, Bool.not_true, Bool.or_false, Bool.false_eq_true,
      if_false]
    rfl
  case txId =>
    rw [hostAccess_writeReg s v .txId rfl rfl]
    simp only [writeReg, lockedWrite, cfgLocked_eq_false ho hc, Bool.false_eq_true, if_false]
  case rxId =>
    rw [hostAccess_writeReg s v .rxId rfl rfl]
    simp only [writeReg, lockedWrite, cfgLocked_eq_false ho hc, Bool.false_eq_true, if_false]
  case txLen =>
    rw [hostAccess_writeReg s v .txLen rfl rfl]
    simp only [writeReg, writeTxLen, hb, Bool.false_eq_true, if_false, extractLsb'_zero_eq_ofNat]
  case trace => exact hostAccess_writeReg s v .trace rfl rfl

/-! ## The block's addresses -/

theorem blockOffset_base_add (off : BitVec 12) : Config.blockOffset (Config.base + off.toNat) = some off := by
  have hlt := off.isLt
  rw [Config.blockOffset, if_pos ⟨by omega, by omega⟩, Nat.add_sub_cancel_left, BitVec.ofNat_toNat, BitVec.setWidth_eq]

theorem blockOffset_ne_none_iff (addr : Nat) :
    Config.blockOffset addr ≠ none ↔ Config.base ≤ addr ∧ addr < Config.base + 4096 := by
  unfold Config.blockOffset
  split <;> simp_all

/-- A host access looks at the moves to come no further, so it is the same access whichever move names it. -/
theorem step_bus_eq_step_host (s : State) (off : BitVec 12) (acc : Access) (rest : List Turn) :
    step { s with turns := .bus (Config.base + off.toNat) acc :: rest } = step { s with turns := .host off acc :: rest } := by
  have hbus : step { s with turns := .bus (Config.base + off.toNat) acc :: rest } =
      mapNext endTurn (hostAccess off acc { s with turns := .bus (Config.base + off.toNat) acc :: rest }) := by
    simp only [step, perform, select, selectBus, blockOffset_base_add]
  have hhost : step { s with turns := .host off acc :: rest } =
      mapNext endTurn (hostAccess off acc { s with turns := .host off acc :: rest }) := rfl
  have hturns (l : List Turn) (hl : ctlEngineMoves { s with turns := l } = false) :
      hostAccess off acc { s with turns := l } =
        mapNext (fun t => { t with turns := l }) (hostAccess off acc { s with turns := [] }) :=
    hostAccess_turns off acc { s with turns := [] } rfl hl
  rw [hbus, hhost, hturns (.bus (Config.base + off.toNat) acc :: rest) rfl, hturns (.host off acc :: rest) rfl]
  cases hostAccess off acc { s with turns := [] } <;> rfl

/-- Settles O37: the offset of an address, then the access at it. -/
theorem blockAddressDecode : Obligations.BlockAddressDecode := by
  refine ⟨blockOffset_base_add, blockOffset_ne_none_iff, step_bus_eq_step_host, fun s addr acc rest hw ht hout => ?_⟩
  have hnone : Config.blockOffset addr = none := by
    by_contra h
    have := (blockOffset_ne_none_iff addr).mp h
    omega
  have hidle : select s = .idle := by simp only [select, ht, selectBus, hnone]
  rw [step_of_select_idle hidle, endTurn_clear hw, ht, List.tail_cons]

end Sys2Proof.Machine
end

section
/-! PROOFS. What a host stores in TXBUF and reads back from the two buffers, little-endian (20_memory.md R49 to R51, R54, R55). -/

namespace Sys2Proof.Machine

/-! ## The bytes of a word -/

theorem getElem?_wordBytes (v : Word) {k : Nat} (hk : k < 4) :
    (wordBytes v)[k]? = some (BitVec.ofNat 8 (v.toNat / 2 ^ (8 * k))) := by
  have hbyte (lo : Nat) : v.extractLsb' lo 8 = BitVec.ofNat 8 (v.toNat / 2 ^ lo) := by
    apply BitVec.eq_of_toNat_eq
    rw [BitVec.extractLsb'_toNat, BitVec.toNat_ofNat, Nat.shiftRight_eq_div_pow]
  match k, hk with
  | 0, _ | 1, _ | 2, _ | 3, _ => exact congrArg some (hbyte _)

theorem bytesWord_toNat (b0 b1 b2 b3 : Byte) :
    (bytesWord b0 b1 b2 b3).toNat = b0.toNat + 2 ^ 8 * b1.toNat + 2 ^ 16 * b2.toNat + 2 ^ 24 * b3.toNat := by
  simp only [bytesWord, append_toNat]
  omega

theorem bytesWord_wordBytes (v : Word) :
    bytesWord (v.extractLsb' 0 8) (v.extractLsb' 8 8) (v.extractLsb' 16 8) (v.extractLsb' 24 8) = v := by
  apply BitVec.eq_of_toNat_eq
  simp only [bytesWord_toNat, BitVec.extractLsb'_toNat, Nat.shiftRight_eq_div_pow]
  omega

/-! ## Accesses to a buffer -/

theorem region_txBuf {off : BitVec 12} (hlo : 0x400 ≤ off.toNat) (hhi : off.toNat < 0x780) : region off = .buf .tx := by
  rcases region_cases off with ⟨_, _⟩ | ⟨_, _, h⟩ | ⟨_, _, _⟩ | ⟨_, _⟩
  · omega
  · exact h
  · omega
  · omega

theorem region_rxBuf {off : BitVec 12} (hlo : 0x800 ≤ off.toNat) (hhi : off.toNat < 0xB80) : region off = .buf .rx := by
  rcases region_cases off with ⟨_, _⟩ | ⟨_, _, _⟩ | ⟨_, _, h⟩ | ⟨_, _⟩
  · omega
  · omega
  · exact h
  · omega

/-- A byte read of a buffer that the host may read, at a written byte (R51). -/
theorem hostAccess_readBuf8 {b : Buf} {off : BitVec 12} {s : State} {v : Byte} (hr : region off = .buf b)
    (hz : readHazard b s = false) (hv : Memory.read s.mem off.toNat = some v) :
    hostAccess off .r8 s = .next { s with busOut := s.busOut ++ [.byte v] } := by
  simp only [hostAccess, hr, accessBuf, readBuf8, hz, hv]
  rfl

/-- A word read of a buffer that the host may read, at four written bytes (R51, R54, R55). -/
theorem hostAccess_readBuf32 {b : Buf} {off : BitVec 12} {s : State} {b0 b1 b2 b3 : Byte} (hr : region off = .buf b)
    (hz : readHazard b s = false) (ha : off.toNat % 4 = 0) (hv : Memory.readBytes s.mem off.toNat 4 = some [b0, b1, b2, b3]) :
    hostAccess off .r32 s = .next { s with busOut := s.busOut ++ [.word (bytesWord b0 b1 b2 b3)] } := by
  simp only [hostAccess, hr, accessBuf, (aligned4_iff off).mpr ha, readBuf32, hz, hv]
  rfl

/-- A byte write of TXBUF while no WRITE runs (R49, R70). -/
theorem hostAccess_writeTxBuf8 {off : BitVec 12} {s : State} (hr : region off = .buf .tx) (hb : s.txBusy = false) (v : Byte) :
    hostAccess off (.w8 v) s = .next { s with mem := Memory.writeBytes s.mem off.toNat [v] } := by
  simp only [hostAccess, hr, accessBuf, writeBuf, hb, Bool.false_eq_true, if_false]

/-- A word write of TXBUF while no WRITE runs (R49, R54, R55, R70). -/
theorem hostAccess_writeTxBuf32 {off : BitVec 12} {s : State} (hr : region off = .buf .tx) (hb : s.txBusy = false)
    (ha : off.toNat % 4 = 0) (v : Word) :
    hostAccess off (.w32 v) s = .next { s with mem := Memory.writeBytes s.mem off.toNat (wordBytes v) } := by
  simp only [hostAccess, hr, accessBuf, (aligned4_iff off).mpr ha, writeBuf, hb, Bool.false_eq_true, if_false, if_true]

theorem sameOutside_writeBytes (m : Memory) (lo : Nat) (v : List Byte) :
    sameOutside m (Memory.writeBytes m lo v) lo v.length :=
  fun _ ha => Memory.read_writeBytes_outside m v ha

/-- Settles O35: the bytes stored are those a read at the same offset finds. -/
theorem txBufStoreLoad : Obligations.TxBufStoreLoad := by
  intro s off hlo hhi hb
  have hr := region_txBuf hlo hhi
  refine ⟨fun v ha => ?word, fun v => ?byte⟩
  case word =>
    have hbytes (k : Nat) (hk : k < 4) := Memory.read_writeBytes_inside s.mem off.toNat _ (getElem?_wordBytes v hk)
    have hload := Memory.readBytes_writeBytes s.mem off.toNat (wordBytes v)
    refine ⟨_, hostAccess_writeTxBuf32 hr hb ha v, hbytes, sameOutside_writeBytes s.mem _ (wordBytes v), ?_⟩
    rw [hostAccess_readBuf32 hr rfl ha hload, bytesWord_wordBytes]
  case byte =>
    have hread := Memory.read_writeBytes_inside s.mem off.toNat [v] (k := 0) rfl
    exact ⟨_, hostAccess_writeTxBuf8 hr hb v, hread, sameOutside_writeBytes s.mem _ [v], hostAccess_readBuf8 hr rfl hread⟩

/-- Settles O36: the written bytes, read one by one or as the word they make. -/
theorem rxBufLoad : Obligations.RxBufLoad := by
  intro s off hlo hhi hb
  have hr := region_rxBuf hlo hhi
  refine ⟨fun b hv => hostAccess_readBuf8 hr hb hv, fun b0 b1 b2 b3 ha h0 h1 h2 h3 => ?_⟩
  have hload : Memory.readBytes s.mem off.toNat 4 = some [b0, b1, b2, b3] := by
    simp only [Memory.readBytes, h0, h1, h2, h3, Nat.add_assoc, Nat.reduceAdd]
  exact ⟨_, hostAccess_readBuf32 hr hb ha hload, bytesWord_toNat b0 b1 b2 b3⟩

end Sys2Proof.Machine
end

section
/-! PROOFS. Encoding and decoding as inverses, format by format, and the tables of the classes (30_encoding.md R72 to R94). -/

namespace Sys2Proof

/-! ## A command word (R83, R84) -/

theorem decodeCmd_cmdWord (code : Byte) : decodeCmd (0#24 ++ code) = decodeCode code := congrArg decodeCode (cmdWord_code code)

theorem decodeCode_reserved {code : Byte} (h : Instr.reservedCodeOk code = true) : decodeCode code = .cmdReserved code := by
  rcases decodeCode_cases code with ⟨rfl, _⟩ | ⟨rfl, _⟩ | ⟨rfl, _⟩ | ⟨rfl, _⟩ | ⟨_, _, _, _, e⟩
  · cases h
  · cases h
  · cases h
  · cases h
  · exact e

theorem wf_decodeCode (code : Byte) : (decodeCode code).wf = true := by
  rcases decodeCode_cases code with ⟨_, e⟩ | ⟨_, e⟩ | ⟨_, e⟩ | ⟨_, e⟩ | ⟨h1, h2, h3, h4, e⟩ <;> rw [e]
  on_goal 5 => simp [Instr.wf, Instr.reservedCodeOk, h1, h2, h3, h4]
  all_goals rfl

/-! ## A transmitted control byte (R72 to R77, R100) -/

section
variable {final : Bool}

theorem decodeTx_zero (hf : final = true) : decodeTx final 0x00#8 = .ok .txSingle := by
  rw [hf]
  rfl

theorem decodeTx_startCtl (hf : final = false) {n : BitVec 7} (h : n ≠ 0#7) :
    decodeTx final (startCtl n) = .ok (.txStart n) := by
  simp [decodeTx, hf, h]

theorem decodeTx_contCtl (hf : final = false) {i : BitVec 7} (h0 : i ≠ 0#7) (h127 : i ≠ 127#7) :
    decodeTx final (contCtl i) = .ok (.txCont i) := by
  simp [decodeTx, hf, h0, h127]

theorem decodeTx_contCtl_last (hf : final = true) {i : BitVec 7} (h : i ≠ 0#7) :
    decodeTx final (contCtl i) = .ok (.txContLast i) := by
  simp [decodeTx, hf, h]

end

theorem fullIndexOk_iff (i : BitVec 7) : Instr.fullIndexOk i = true ↔ i ≠ 0#7 ∧ i ≠ 127#7 := by
  simp [Instr.fullIndexOk]

/-- A start with count 0 is no frame of the transmitter (R88). -/
theorem decodeTx_countZero (final : Bool) (i : Instr) : decodeTx final 0x80#8 ≠ .ok i := by
  cases final <;> nofun

theorem wf_of_decodeTx {final : Bool} {ctl : Byte} {i : Instr} (h : decodeTx final ctl = .ok i) : i.wf = true := by
  unfold decodeTx at h
  cases hs : ctlStart ctl with
  | true =>
    simp only [hs, if_true] at h
    split_ifs at h with _ hz
    cases h
    exact bne_iff_ne.mpr hz
  | false =>
    simp only [hs, Bool.false_eq_true, if_false] at h
    have hlow (hc : ctl ≠ 0x00#8) : ctlLow ctl ≠ 0#7 := mt (ctlLow_eq_zero hs).mp hc
    split_ifs at h with hz _ _ h127
    · cases h
      rfl
    · cases h
      exact bne_iff_ne.mpr (hlow hz)
    · cases h
      exact (fullIndexOk_iff _).mpr ⟨hlow hz, h127⟩

/-! ## A decode word (R78, R79) -/

theorem decodeRx_dw (iCont : Byte) (st : RxState) (ctl : Byte) :
    decodeRx iCont (dw st true ctl) = .ok (decodeCtl iCont st ctl) := by
  simp only [decodeRx, dw_ne, dw_ctl, dw_state, if_true]

theorem decodeRx_dw_empty (iCont : Byte) (st : RxState) : decodeRx iCont (dw st false 0x00#8) = .ok (.rxZeroLen st) := by
  simp only [decodeRx, dw_ne, dw_ctl, dw_state, Bool.false_eq_true, if_false, if_true]

theorem decodeCtl_start (iCont : Byte) (n : BitVec 7) : decodeCtl iCont .s0 (startCtl n) = .rxStart n := by
  simp [decodeCtl]

theorem decodeCtl_malformed (iCont : Byte) {n : BitVec 7} (h : n ≠ 0#7) : decodeCtl iCont .s0 (contCtl n) = .rxMalformed n := by
  simp [decodeCtl, h]

theorem decodeCtl_cont (i : BitVec 7) : decodeCtl (contCtl i) .s1 (contCtl i) = .rxCont i := by
  simp [decodeCtl]

theorem decodeCtl_outOfSeq {iCont ctl : Byte} (h : ctlStart ctl = true ∨ ctl ≠ iCont) :
    decodeCtl iCont .s1 ctl = .rxOutOfSeq ctl := by
  refine if_neg fun ⟨hs, hi⟩ => ?_
  rcases h with h | h
  · rw [hs] at h
    cases h
  · exact h hi

theorem wf_decodeCtl {iCont : Byte} (hi : iCont ≠ 0#8) (st : RxState) (ctl : Byte) : (decodeCtl iCont st ctl).wf = true := by
  cases st with
  | s0 =>
    simp only [decodeCtl]
    split_ifs with hs hz
    · rfl
    · rfl
    · exact bne_iff_ne.mpr (mt (ctlLow_eq_zero (Bool.eq_false_of_not_eq_true hs)).mp hz)
  | s1 =>
    simp only [decodeCtl]
    split_ifs with hc
    · obtain ⟨hs, rfl⟩ := hc
      exact bne_iff_ne.mpr (mt (ctlLow_eq_zero hs).mp hi)
    · rfl

theorem wf_of_decodeRx {iCont : Byte} (hi : iCont ≠ 0#8) {w : BitVec 10} {i : Instr} (h : decodeRx iCont w = .ok i) :
    i.wf = true := by
  simp only [decodeRx] at h
  split_ifs at h
  · cases h
    exact wf_decodeCtl hi _ _
  · cases h
    rfl

/-! ## A filter word (R81) -/

theorem decodeFlt_status (rxExt : Bool) (rxId : Word) (ext : Bool) (id : Word) :
    decodeFlt rxExt rxId (fw true ext id) = .fltStatus ext id := by
  simp only [decodeFlt, fw_status, fw_ext, fw_id, if_true]

theorem decodeFlt_extMismatch {rxExt ext : Bool} (rxId id : Word) (h : ext ≠ rxExt) :
    decodeFlt rxExt rxId (fw false ext id) = .fltExtMismatch ext id := by
  simp only [decodeFlt, fw_status, fw_ext, fw_id, Bool.false_eq_true, if_false, if_pos h]

theorem decodeFlt_idMismatch (ext : Bool) {rxId id : Word} (h : id ≠ rxId) :
    decodeFlt ext rxId (fw false ext id) = .fltIdMismatch ext id := by
  simp only [decodeFlt, fw_status, fw_ext, fw_id, Bool.false_eq_true, ne_eq, not_true_eq_false, if_false, if_pos h]

theorem decodeFlt_match (ext : Bool) (id : Word) : decodeFlt ext id (fw false ext id) = .fltMatch ext id := by
  simp only [decodeFlt, fw_status, fw_ext, fw_id, Bool.false_eq_true, ne_eq, not_true_eq_false, if_false]

theorem wf_decodeFlt (rxExt : Bool) (rxId : Word) (w : BitVec 34) : (decodeFlt rxExt rxId w).wf = true := by
  simp only [decodeFlt]
  split_ifs <;> rfl

/-! ## The round trip -/

/-- Settles O1: row by row, each by the decoder's equation for the row's word. -/
theorem decodeInvertsEncode : Obligations.DecodeInvertsEncode := by
  intro c i hwf hfit
  cases i with
  | cmdOpen | cmdClose | cmdWrite | cmdRead | devqFetch | cantxFrame | rxSingle => rfl
  | cmdReserved code => exact congrArg Except.ok ((decodeCmd_cmdWord code).trans (decodeCode_reserved hwf))
  | txSingle => exact decodeTx_zero hfit
  | txStart n => exact decodeTx_startCtl ((Bool.not_eq_true' _).mp hfit) (bne_iff_ne.mp hwf)
  | txCont k =>
    obtain ⟨h0, h127⟩ := (fullIndexOk_iff k).mp hwf
    exact decodeTx_contCtl ((Bool.not_eq_true' _).mp hfit) h0 h127
  | txContLast k => exact decodeTx_contCtl_last hfit (bne_iff_ne.mp hwf)
  | rxZeroLen st => exact decodeRx_dw_empty c.iCont st
  | rxMalformed n => exact (decodeRx_dw _ _ _).trans (congrArg Except.ok (decodeCtl_malformed c.iCont (bne_iff_ne.mp hwf)))
  | rxStart n => exact (decodeRx_dw _ _ _).trans (congrArg Except.ok (decodeCtl_start c.iCont n))
  | rxCont i =>
    show decodeRx c.iCont _ = _
    rw [← show contCtl i = c.iCont from beq_iff_eq.mp hfit, decodeRx_dw, decodeCtl_cont]
  | rxOutOfSeq ctl =>
    have hseq : ctlStart ctl = true ∨ ctl ≠ c.iCont := by simpa [DecodeCtx.fits] using hfit
    exact (decodeRx_dw _ _ _).trans (congrArg Except.ok (decodeCtl_outOfSeq hseq))
  | fltStatus ext id => exact congrArg Except.ok (decodeFlt_status c.rxExt c.rxId ext id)
  | fltExtMismatch ext id => exact congrArg Except.ok (decodeFlt_extMismatch c.rxId id (bne_iff_ne.mp hfit))
  | fltIdMismatch ext id =>
    obtain ⟨hext, hid⟩ : ext = c.rxExt ∧ id ≠ c.rxId := by simpa [DecodeCtx.fits] using hfit
    show Except.ok (decodeFlt c.rxExt _ _) = _
    rw [← hext, decodeFlt_idMismatch ext hid]
  | fltMatch ext id =>
    obtain ⟨hext, hid⟩ : ext = c.rxExt ∧ id = c.rxId := by simpa [DecodeCtx.fits] using hfit
    show Except.ok (decodeFlt c.rxExt c.rxId _) = _
    rw [← hext, ← hid, decodeFlt_match]

/-- Settles O3: format by format. -/
theorem decodedIsWellFormed : Obligations.DecodedIsWellFormed := by
  intro c w i hi h
  cases w with
  | cmd v =>
    cases h
    exact wf_decodeCode _
  | segTx ctl => exact wf_of_decodeTx h
  | segRx d => exact wf_of_decodeRx hi h
  | canf f =>
    cases h
    exact wf_decodeFlt c.rxExt c.rxId f
  | devq | cantx =>
    cases h
    rfl

/-- Settles O9: the nine words by computation. -/
theorem sampleWordsDecode : Obligations.SampleWordsDecode := by
  rintro ⟨iCont, rxExt, rxId, txFinal⟩ rfl rfl rfl rfl
  exact ⟨rfl, rfl, rfl, rfl, rfl, rfl, rfl, rfl, rfl⟩

end Sys2Proof
end

section
/-! PROOFS. The machine's classes of a frame and of a message, the frames it sends, and the operation that is staged
(30_encoding.md R72 to R94). -/

namespace Sys2Proof.Machine

/-! ## The receive classes (R78, R79) -/

/-- The decode word of a frame that has a control byte, as a number (R79). -/
theorem dw_toNat (st : RxState) (ctl : Byte) :
    (dw st true ctl).toNat = (if st = .s1 then 2 ^ 9 else 0) + 2 ^ 8 + ctl.toNat := by
  rw [dw, append_toNat, append_toNat]
  cases st <;> rfl

theorem contCtl_ofNat {ctl : Byte} (h : ctl.toNat < 0x80) : contCtl (BitVec.ofNat 7 ctl.toNat) = ctl := by
  apply BitVec.eq_of_toNat_eq
  rw [contCtl_toNat, BitVec.toNat_ofNat, Nat.mod_eq_of_lt h]

theorem startCtl_ofNat {ctl : Byte} (h : 0x80 ≤ ctl.toNat) : startCtl (BitVec.ofNat 7 (ctl.toNat - 0x80)) = ctl := by
  apply BitVec.eq_of_toNat_eq
  have := ctl.isLt
  rw [startCtl_toNat, BitVec.toNat_ofNat]
  omega

theorem rxClass_cons (s : State) (ctl : Byte) (p : List Byte) : rxClass s (ctl :: p) = decodeCtl s.iCont s.rxState ctl := rfl

/-- Settles O4: the class of the control byte's value in each receive state. -/
theorem receiveClassTable : Obligations.ReceiveClassTable := by
  refine fun s f => ⟨decode_frameDw s f, ?empty, ?rows⟩
  case empty =>
    rintro rfl
    refine ⟨rfl, ?_⟩
    show (dw s.rxState false 0x00#8).toNat = _
    cases s.rxState <;> rfl
  case rows =>
    rintro ctl p rfl
    rw [rxClass_cons]
    refine ⟨dw_toNat s.rxState ctl, fun hs h0 => ?single, fun hs hlo hhi => ?malformed, fun hs hlo => ?start,
      fun hs hlt hi => ?cont, fun hs h => ?outOfSeq, fun hs h1 h0 => ?zero⟩
    all_goals rw [hs]
    case single =>
      rw [show ctl = 0x00#8 from BitVec.eq_of_toNat_eq h0]
      rfl
    case malformed =>
      have hctl := contCtl_ofNat (ctl := ctl) (by omega)
      have hn : BitVec.ofNat 7 ctl.toNat ≠ 0#7 := ne_of_apply_ne contCtl (by
        rw [hctl]
        rintro rfl
        cases hlo)
      rw [← decodeCtl_malformed s.iCont hn, hctl]
    case start => rw [← decodeCtl_start s.iCont, startCtl_ofNat hlo]
    case cont => rw [← decodeCtl_cont, contCtl_ofNat hlt, hi]
    case outOfSeq => exact decodeCtl_outOfSeq (h.imp_left (ctlStart_iff ctl).mpr)
    case zero =>
      refine decodeCtl_outOfSeq (.inr ?_)
      rintro rfl
      omega

/-! ## The filter classes (R81) -/

theorem fw_toNat (status ext : Bool) (id : Word) :
    (fw status ext id).toNat = 2 ^ 33 * status.toNat + 2 ^ 32 * ext.toNat + id.toNat := by
  rw [fw, append_toNat, append_toNat, BitVec.toNat_ofBool, BitVec.toNat_ofBool]
  omega

/-- Settles O5: the decoder's equation for each class. -/
theorem filterClassTable : Obligations.FilterClassTable := by
  intro s m
  refine ⟨fw_toNat _ _ _, rfl, fun hs => ?status, fun hs he => ?extMismatch, fun hs he hi => ?idMismatch,
    fun hs he hi => ?hit⟩
  all_goals
    rw [fltClass, msgFw, hs]
  case status => exact decodeFlt_status s.rxExt s.rxId m.ext m.id
  case extMismatch => exact decodeFlt_extMismatch s.rxId m.id he
  case idMismatch =>
    rw [he]
    exact decodeFlt_idMismatch s.rxExt hi
  case hit =>
    rw [he, hi]
    exact decodeFlt_match s.rxExt s.rxId

/-! ## The transmitter's control bytes (R88, R100) -/

/-- The index of a running WRITE has no continuation after 127 (R98, R101). -/
theorem TxInv.index_lt {s : State} (h : TxInv s) {k : Nat} (hk : s.txOff.toNat + k * s.txNb.toNat < s.txN.toNat) :
    s.txI.toNat + k < 128 := by
  have hoff := h.offset
  have hlen := h.lengthLegal
  have hlt : (s.txI.toNat + k) * s.txNb.toNat < 128 * s.txNb.toNat := by
    rw [Nat.add_mul]
    omega
  exact Nat.lt_of_mul_lt_mul_right hlt

/-- A continuation's index is the low bits of TXI (R72, R101). -/
theorem TxInv.toNat_ctlLow_txI {s : State} (h : TxInv s) (hi : s.txI ≠ 0#8) : (ctlLow s.txI).toNat = s.txI.toNat := by
  have hlt := h.index_lt (k := 0) (by have := h.remains.resolve_left hi; omega)
  rw [ctlLow_toNat, Nat.mod_eq_of_lt (by omega)]

/-- A message of more than one frame has 1 to 127 continuations (R76, R98). -/
theorem TxInv.txTotal_bounds {s : State} (h : TxInv s) (hnb : 1 ≤ s.txNb.toNat) (more : s.txNb.toNat < s.txN.toNat) :
    1 ≤ txTotal s ∧ txTotal s < 128 := by
  have hlen := h.lengthLegal
  exact ⟨(Nat.one_le_div_iff hnb).mpr (by omega), (Nat.div_lt_iff_lt_mul hnb).mpr (by omega)⟩

theorem TxInv.wf_txClass {s : State} (h : TxInv s) (hnb : 1 ≤ s.txNb.toNat) : (txClass s).wf = true := by
  have hlow (hi : s.txI ≠ 0#8) : ctlLow s.txI ≠ 0#7 := by
    have h0 : s.txI.toNat ≠ 0 := BitVec.toNat_ne.mp hi
    exact BitVec.toNat_ne.mpr ((h.toNat_ctlLow_txI hi).trans_ne h0)
  have hmore (hfinal : ¬ txFinal s = true) : s.txNb.toNat < s.txN.toNat - s.txOff.toNat :=
    Nat.lt_of_not_le (mt (txFinal_iff s).mpr hfinal)
  unfold txClass
  split_ifs with hfinal hi hi
  · rfl
  · exact bne_iff_ne.mpr (hlow hi)
  · obtain ⟨hpos, hlt⟩ := h.txTotal_bounds hnb (by have := hmore hfinal; omega)
    refine bne_iff_ne.mpr (BitVec.toNat_ne.mpr ?_)
    rw [BitVec.toNat_ofNat, Nat.mod_eq_of_lt hlt]
    exact Nat.ne_of_gt hpos
  · have hlt := h.index_lt (k := 1) (by have := hmore hfinal; omega)
    have h127 : ctlLow s.txI ≠ 127#7 :=
      BitVec.toNat_ne.mpr ((h.toNat_ctlLow_txI hi).trans_ne (Nat.ne_of_lt (Nat.lt_of_add_lt_add_right hlt)))
    exact (fullIndexOk_iff _).mpr ⟨hlow hi, h127⟩

/-- The frame sent next meets its row's condition and has a control byte for its word (R72, R100). -/
theorem fits_encode_txClass (s : State) :
    (decodeCtx s).fits (txClass s) = true ∧ ∃ ctl, encode (txClass s) = .segTx ctl := by
  unfold txClass
  split_ifs with hfinal hi hi
  · exact ⟨hfinal, _, rfl⟩
  · exact ⟨hfinal, _, rfl⟩
  · exact ⟨by simpa [DecodeCtx.fits, decodeCtx] using hfinal, _, rfl⟩
  · exact ⟨by simpa [DecodeCtx.fits, decodeCtx] using hfinal, _, rfl⟩

/-- Settles O8: the frame is well formed, so its word decodes back to it, and 0x80 decodes to nothing. -/
theorem transmitterControlBytes : Obligations.TransmitterControlBytes := by
  intro s h hb
  have ht := h.txRunning hb
  have hwf := ht.wf_txClass (by rw [ht.nbOfSize]; exact h.sizeNb_pos.1)
  obtain ⟨hfit, ctl, henc⟩ := fits_encode_txClass s
  have hdec := decodeInvertsEncode _ _ hwf hfit
  rw [henc] at hdec
  refine ⟨hwf, ctl, henc, ?_, hdec⟩
  rintro rfl
  exact decodeTx_countZero _ _ hdec

/-! ## The staged operation (R91, R94, log entry 7) -/

theorem tableCtx_iCont_ne_zero (ctl : Byte) : (tableCtx ctl).iCont ≠ 0#8 := by
  unfold tableCtx
  split_ifs with h
  · nofun
  · exact fun hz => h (.inr hz)

theorem wf_decodeTableByte (b : Byte) : (decodeTableByte b).wf = true := by
  have hcode := wf_decodeCode b
  unfold decodeTableByte
  split
  · next code heq =>
    rw [heq] at hcode
    split
    · next i h => exact wf_of_decodeTx h
    · exact hcode
  · exact hcode

theorem wf_of_toOption_decode {c : DecodeCtx} {w : Encoded} {i : Instr} (hc : c.iCont ≠ 0#8)
    (h : (decode c w).toOption = some i) : i.wf = true := by
  cases hd : decode c w with
  | error e =>
    rw [hd] at h
    cases h
  | ok j =>
    rw [hd] at h
    cases h
    exact decodedIsWellFormed c w _ hc hd

theorem wf_of_decodeTableWord {nbits w : Nat} {i : Instr} (h : decodeTableWord nbits w = some i) : i.wf = true := by
  unfold decodeTableWord at h
  split_ifs at h
  · cases h
    rfl
  · cases h
    exact wf_decodeTableByte _
  · exact wf_of_toOption_decode (tableCtx_iCont_ne_zero _) h
  · cases h
    exact wf_decodeCode _
  · exact wf_of_toOption_decode (tableCtx_iCont_ne_zero _) h

section
variable {n i : Nat} (s : State)

/-- A staged WRITE of one-byte payloads has its last frame at index `n - 1` (R100). -/
theorem txFinal_stageTx (hn : n < 2 ^ 16) (hi : i < 2 ^ 16) : txFinal (stageTx n i s) = true ↔ n ≤ i + 1 := by
  rw [txFinal_iff]
  show (BitVec.ofNat 16 n).toNat - (BitVec.ofNat 16 i).toNat ≤ 1 ↔ _
  rw [BitVec.toNat_ofNat, BitVec.toNat_ofNat, Nat.mod_eq_of_lt hn, Nat.mod_eq_of_lt hi]
  omega

theorem ofNat_contIndex (k : BitVec 7) : BitVec.ofNat 8 k.toNat = contCtl k := by
  apply BitVec.eq_of_toNat_eq
  rw [contCtl_toNat, BitVec.toNat_ofNat]
  omega

theorem txClass_stageTx_start {k : BitVec 7} (hk : k ≠ 0#7) : txClass (stageTx (k.toNat + 1) 0 s) = .txStart k := by
  have hlt := k.isLt
  have hpos : k.toNat ≠ 0 := BitVec.toNat_ne.mp hk
  have hmore : ¬ txFinal (stageTx (k.toNat + 1) 0 s) = true := by
    rw [txFinal_stageTx s (by omega) (by omega)]
    omega
  have htotal : txTotal (stageTx (k.toNat + 1) 0 s) = k.toNat := by
    show ((BitVec.ofNat 16 (k.toNat + 1)).toNat - 1) / 1 = _
    rw [BitVec.toNat_ofNat]
    omega
  have hindex : (stageTx (k.toNat + 1) 0 s).txI = 0#8 := rfl
  rw [txClass, if_neg hmore, if_pos hindex, htotal, BitVec.ofNat_toNat, BitVec.setWidth_eq]

theorem txClass_stageTx_cont {k : BitVec 7} (hk : k ≠ 0#7) : txClass (stageTx (k.toNat + 2) k.toNat s) = .txCont k := by
  have hlt := k.isLt
  have hmore : ¬ txFinal (stageTx (k.toNat + 2) k.toNat s) = true := by
    rw [txFinal_stageTx s (by omega) (by omega)]
    omega
  have hindex : (stageTx (k.toNat + 2) k.toNat s).txI = contCtl k := ofNat_contIndex k
  rw [txClass, if_neg hmore, hindex, if_neg (mt (contCtl_eq_zero k).mp hk), ctlLow_contCtl]

theorem txClass_stageTx_contLast {k : BitVec 7} (hk : k ≠ 0#7) :
    txClass (stageTx (k.toNat + 1) k.toNat s) = .txContLast k := by
  have hlt := k.isLt
  have hlast : txFinal (stageTx (k.toNat + 1) k.toNat s) = true := (txFinal_stageTx s (by omega) (by omega)).mpr (le_refl _)
  have hindex : (stageTx (k.toNat + 1) k.toNat s).txI = contCtl k := ofNat_contIndex k
  rw [txClass, if_pos hlast, hindex, if_neg (mt (contCtl_eq_zero k).mp hk), ctlLow_contCtl]

theorem select_stageTx {i : Instr} {n k : Nat} (h : txClass (stageTx n k s) = i) : select (stageTx n k s) = .run i :=
  congrArg Action.run h

theorem select_stageRx {i : Instr} {st : RxState} {iCont ctl : Byte} (h : decodeCtl iCont st ctl = i) :
    select (stageRx st iCont [ctl] s) = .run i := congrArg Action.run h

theorem select_stageFlt {i : Instr} {status ext rxExt : Bool} {id rxId : Word} (h : decodeFlt rxExt rxId (fw status ext id) = i) :
    select (stageFlt status ext id rxExt rxId s) = .run i := congrArg Action.run h

end

/-- A staged instruction is the one the engine moved selects, or the host's write of its command word. -/
theorem select_stage {i : Instr} (hwf : i.wf = true) (s : State) :
    select (stage i s) = .run i ∨ ∃ v, select (stage i s) = .access 0x000#12 (.w32 v) ∧ decodeCmd v = i := by
  cases i with
  | cmdOpen | cmdClose | cmdWrite | cmdRead => exact .inr ⟨_, rfl, rfl⟩
  | cmdReserved code => exact .inr ⟨_, rfl, (decodeCmd_cmdWord code).trans (decodeCode_reserved hwf)⟩
  | txSingle | rxZeroLen | rxSingle | devqFetch | cantxFrame => exact .inl rfl
  | txStart n => exact .inl (select_stageTx s (txClass_stageTx_start s (bne_iff_ne.mp hwf)))
  | txCont k =>
    obtain ⟨h0, _⟩ := (fullIndexOk_iff k).mp hwf
    exact .inl (select_stageTx s (txClass_stageTx_cont s h0))
  | txContLast k => exact .inl (select_stageTx s (txClass_stageTx_contLast s (bne_iff_ne.mp hwf)))
  | rxMalformed n => exact .inl (select_stageRx s (decodeCtl_malformed _ (bne_iff_ne.mp hwf)))
  | rxStart n => exact .inl (select_stageRx s (decodeCtl_start _ n))
  | rxCont k => exact .inl (select_stageRx s (decodeCtl_cont k))
  | rxOutOfSeq ctl =>
    have hne : ctl ≠ if ctl = 0x01#8 then 0x02#8 else 0x01#8 := by
      split_ifs with h
      · rw [h]
        nofun
      · exact h
    exact .inl (select_stageRx s (decodeCtl_outOfSeq (.inr hne)))
  | fltStatus ext id => exact .inl (select_stageFlt s (decodeFlt_status _ _ ext id))
  | fltExtMismatch ext id => exact .inl (select_stageFlt s (decodeFlt_extMismatch _ id (by cases ext <;> nofun)))
  | fltIdMismatch ext id => exact .inl (select_stageFlt s (decodeFlt_idMismatch ext (by simp)))
  | fltMatch ext id => exact .inl (select_stageFlt s (decodeFlt_match ext id))

/-- Settles O11: a table word's instruction is well formed, and staged it is the next. -/
theorem stagedWordIsNextInstruction : Obligations.StagedWordIsNextInstruction := by
  intro s nbits w i h
  rw [State.withFetchWord, h]
  exact select_stage (wf_of_decodeTableWord h) s

/-! ## A reserved command code (R84) -/

/-- Settles O16: the command runs in the host's move, and only the sticky bit and the move spent are left. -/
theorem reservedCommandCode : Obligations.ReservedCommandCode := by
  intro s v rest ht hw h1 h2 h3 h4
  obtain ⟨_, _, _, _, hreserved⟩ := commandCodeTable v
  have hdec := hreserved h1 h2 h3 h4
  refine ⟨hdec, rfl, ?_⟩
  rw [step_host_cmd ht, hdec]
  show Host.Outcome.next (endTurn { s with cmdErr := true }) = _
  rw [endTurn_clear (s := { s with cmdErr := true }) hw, ht, List.tail_cons]

/-! ## The frames of a message (R76, R108) -/

theorem length_contFrames (nb i : Nat) (m : List Byte) (k : Nat) : (contFrames nb i m k).length = k := by
  induction k generalizing i m with
  | zero => rfl
  | succ k ih => exact congrArg (· + 1) (ih (i + 1) (m.drop nb))

theorem head_contFrames (nb i : Nat) (m : List Byte) (k : Nat) :
    (contFrames nb i m k).map List.head? = (List.range k).map fun j => some (BitVec.ofNat 8 (i + j)) := by
  induction k generalizing i m with
  | zero => rfl
  | succ k ih =>
    rw [List.range_succ_eq_map, contFrames, List.map_cons, ih, List.map_cons, List.map_map]
    simp only [List.head?_cons, Nat.add_zero, Function.comp_def, Nat.succ_eq_add_one, Nat.add_assoc, Nat.add_comm 1]

/-- Every continuation but the last is full (R77). -/
theorem payloadLengths_contFrames (nb i : Nat) (m : List Byte) (k : Nat) (hlo : k * nb ≤ m.length)
    (hhi : m.length ≤ (k + 1) * nb) :
    (contFrames nb i m (k + 1)).map (fun f => (payload f).length) = List.replicate k nb ++ [m.length - k * nb] := by
  induction k generalizing i m with
  | zero => simpa [contFrames, payload] using hhi
  | succ k ih =>
    rw [Nat.add_one_mul] at hlo hhi
    have hdrop : (m.drop nb).length = m.length - nb := List.length_drop
    have hfull : (payload (BitVec.ofNat 8 i :: m.take nb)).length = nb := List.length_take_of_le (by omega)
    rw [contFrames, List.map_cons, hfull, ih (i + 1) (m.drop nb) (by omega) (by omega), hdrop, Nat.add_one_mul, Nat.sub_sub,
      Nat.add_comm nb]
    rfl

theorem flatten_payload_contFrames (nb i : Nat) (m : List Byte) (k : Nat) (h : m.length ≤ k * nb) :
    ((contFrames nb i m k).map payload).flatten = m := by
  induction k generalizing i m with
  | zero => exact (List.eq_nil_of_length_eq_zero (by omega)).symm
  | succ k ih =>
    rw [Nat.add_one_mul] at h
    rw [contFrames, List.map_cons, List.flatten_cons, ih (i + 1) (m.drop nb) (by rw [List.length_drop]; omega)]
    exact List.take_append_drop nb m

theorem segFrames_single {nb : Nat} {m : List Byte} (h : m.length ≤ nb) : segFrames nb m = [0x00#8 :: m] := if_pos h

theorem segFrames_many {nb : Nat} {m : List Byte} (h : nb < m.length) :
    segFrames nb m = (BitVec.ofNat 8 (0x80 + (m.length - 1) / nb) :: m.take nb) ::
      contFrames nb 1 (m.drop nb) ((m.length - 1) / nb) := if_neg (by omega)

/-- The continuation count leaves a last frame that is neither empty nor over-full (R76). -/
theorem count_bounds {nb n : Nat} (hnb : 1 ≤ nb) (hn : 1 ≤ n) : (n - 1) / nb * nb < n ∧ n ≤ (n - 1) / nb * nb + nb := by
  have hlo := Nat.div_mul_le_self (n - 1) nb
  have hhi := Nat.lt_div_mul_add (a := n - 1) hnb
  exact ⟨by omega, by omega⟩

/-- Settles O57: the count's bounds, and each list by induction over the continuations. The payloads do not show a frame's
control byte, so those of all the frames are those of continuations from index 0 on. -/
theorem frameCountLaws : Obligations.FrameCountLaws := by
  intro nb m hnb
  refine ⟨?count, segFrames_single, fun hmany _ => ?many, ?payloads⟩
  case count =>
    rw [← Nat.lt_succ_iff, Nat.div_lt_iff_lt_mul hnb]
    omega
  case many =>
    obtain ⟨hlo, hhi⟩ := count_bounds hnb (show 1 ≤ m.length by omega)
    rw [segFrames_many hmany]
    refine ⟨congrArg (· + 1) (length_contFrames _ _ _ _), ?heads, ?lengths, by omega, by omega⟩
    case heads =>
      rw [List.map_cons, head_contFrames]
      simp only [List.head?_cons, Nat.add_comm 1]
    case lengths => exact payloadLengths_contFrames nb 0 m _ hlo.le (by rw [Nat.add_one_mul]; exact hhi)
  case payloads =>
    by_cases hone : m.length ≤ nb
    · rw [segFrames_single hone]
      exact List.append_nil m
    · obtain ⟨_, hhi⟩ := count_bounds hnb (show 1 ≤ m.length by omega)
      rw [segFrames_many (by omega)]
      exact flatten_payload_contFrames nb 0 m ((m.length - 1) / nb + 1) (by rw [Nat.add_one_mul]; exact hhi)

end Sys2Proof.Machine
end

section
/-! PROOFS. WRITE (40_seg_write.md R96 to R108, 70_reset_and_hazards.md R190): its issue, each frame it sends, the run of its frames,
and its end. -/

namespace Sys2Proof.Machine

/-! ## The issue of a WRITE and the frame selected (R96 to R100) -/

/-- `TXNB = SIZE - 1` under a legal SIZE, where neither the subtraction nor the cut to three bits loses anything (R24, R97). -/
theorem sizeNb_of_legal {s : State} (h2 : 2 ≤ s.size.toNat) (h8 : s.size.toNat ≤ 8) :
    sizeNb s = BitVec.ofNat 3 (s.size.toNat - 1) ∧ (sizeNb s).toNat = s.size.toNat - 1 := by
  unfold sizeNb
  generalize s.size = z at h2 h8 ⊢
  revert z
  decide

/-- A message within TXBUF cannot be read exactly when a byte of it is unwritten (R51, R97). -/
theorem memRead_tx_eq_none_iff {m : Memory} {n : Nat} (hn : n ≤ 896) :
    memRead .tx 0 n m = none ↔ ∃ k, k < n ∧ Memory.read m (0x400 + k) = none := by
  have hread : memRead .tx 0 n m = Memory.readBytes m 0x400 n := if_pos (by rw [Nat.zero_add]; exact hn)
  rw [hread, ← Option.not_isSome_iff_eq_none, Memory.readBytes_isSome]
  simp only [not_forall, Option.not_isSome_iff_eq_none, exists_prop]

/-- A WRITE that completes at issue leaves the TX engine idle, as it was (R96, R98). -/
theorem complete_issueWrite {s : State} (hb : s.txBusy = false) (r : Res) :
    complete .tx r (issueWrite s) = { s with txCount := 0#16, txRes := r } := by
  simp only [complete, issueWrite, issue, hb]

/-- Settles O14: the checks of the issue are the branches of `execCmdWrite`, in the order of R161. -/
theorem writeCommand : Obligations.WriteCommand := by
  intro s h2 h8
  obtain ⟨hnb, hnbNat⟩ := sizeNb_of_legal h2 h8
  rw [← hnb, ← hnbNat, exec, execCmdWrite]
  refine ⟨fun hbusy => if_pos ((writeIllegal_iff s).mpr hbusy), fun hb hc => ?_⟩
  rw [if_neg (by simp [writeIllegal_iff, hb, hc])]
  refine ⟨fun hclosed => by rw [if_pos hclosed, complete_issueWrite hb], fun hopen => ?_⟩
  rw [if_neg (by simp [hopen])]
  refine ⟨fun hlong => ?tooLong, fun hfits => ?_⟩
  case tooLong =>
    rw [if_pos hlong]
    exact congrArg (fun u => Host.Outcome.next (latchWrite u)) (complete_issueWrite hb .tooLong)
  rw [if_neg (Nat.not_lt.mpr hfits)]
  have hunwritten := memRead_tx_eq_none_iff (m := s.mem) (show s.txLen.toNat ≤ 896 by omega)
  refine ⟨fun hu => by rw [hunwritten.mpr hu], fun hw => ?issued⟩
  case issued =>
    obtain ⟨v, hv⟩ := Option.ne_none_iff_exists'.mp (mt hunwritten.mp (by simpa using hw))
    rw [hv]
    rfl

/-- Settles O7: the four rows of R100 are the four branches of `txClass`. -/
theorem transmitFrameSelection : Obligations.TransmitFrameSelection := by
  intro s a rest ht hb hf _
  have hselect : select s = .run (txClass s) := by simp only [select, ht, selectTx, hb, hf, if_true]
  have hfinal := txFinal_iff s
  have hzero : s.txI = 0#8 ↔ s.txI.toNat = 0 := BitVec.toNat_inj.symm
  rw [hselect, show BitVec.ofNat 7 s.txI.toNat = ctlLow s.txI from rfl, txClass]
  refine ⟨fun hmore hi => ?_, fun hmore hi => ?_, fun hlast hi => ?_, fun hlast hi => ?_⟩
  · rw [if_neg (mt hfinal.mp (by omega)), if_pos (hzero.mpr hi), txTotal]
  · rw [if_neg (mt hfinal.mp (by omega)), if_neg (mt hzero.mp (by omega))]
  · rw [if_pos (hfinal.mpr hlast), if_pos (hzero.mpr hi)]
  · rw [if_pos (hfinal.mpr hlast), if_neg (mt hzero.mp (by omega))]

/-! ## One frame sent (R101 to R105) -/

/-- A frame that the payload width holds is carried uncut (R82, R146). -/
theorem frameMsg_eq_carried {f : Frame} (h : f.length ≤ Config.payloadWidth) (s : State) : frameMsg f s = carried s f := by
  rw [frameMsg, carried, List.take_of_length_le h]

theorem clearTxWires_eq_self {s : State} (hf : s.txFrame = none) (hr : s.txRet = none) : clearTxWires s = s := by
  rw [clearTxWires, ← hf, ← hr]

theorem writeAnswer_of_turns {s : State} {a : Option Answer} {rest : List Turn} (ht : s.turns = .tx a :: rest) :
    writeAnswer s = a := by
  rw [writeAnswer, ht]

/-- What one frame of at most 8 bytes does, for each answer of the device (R101 to R105, R132). -/
theorem txSend_answers {s : State} (rest : List Turn) {bytes : List Byte} {n : Nat} (kind : TraceKind) (ctl : Byte)
    (done : State → State) (hf : s.txFrame = none) (hr : s.txRet = none) (hn : n ≤ 7) (hcap : s.txOff.toNat + n ≤ 896)
    (hread : Memory.readBytes s.mem (0x400 + s.txOff.toNat) n = some bytes) :
    (s.turns = .tx (some .ok) :: rest → txSend kind ctl n done s = .next (done { s with
      devLog := s.devLog ++ [.write (carried s (ctl :: bytes)) .ok], trace := traced s .tx kind (ctl :: bytes) })) ∧
    (s.turns = .tx (some .err) :: rest → txSend kind ctl n done s = .next { s with
      txCount := s.txOff, txRes := .devWriteErr, txBusy := false
      devLog := s.devLog ++ [.write (carried s (ctl :: bytes)) .err] }) ∧
    (s.turns = .tx none :: rest → txSend kind ctl n done s = .next s) := by
  have hm : memRead .tx s.txOff.toNat n s.mem = some bytes := memRead_eq_some.mpr ⟨hcap, hread⟩
  have hlen : (ctl :: bytes).length ≤ Config.payloadWidth := by
    rw [List.length_cons, Memory.readBytes_length hread]
    exact Nat.succ_le_succ hn
  have hclear (l : List DevEvent) : clearTxWires { s with devLog := l } = { s with devLog := l } := clearTxWires_eq_self hf hr
  have hcases := txSend_cases (kind := kind) (ctl := ctl) (n := n) (done := done) (s := s)
  simp only [hm, reduceCtorEq, false_and, false_or, Option.some.injEq, exists_eq_left', hclear, frameMsg_eq_carried hlen] at hcases
  refine ⟨fun ht => ?_, fun ht => ?_, fun ht => ?_⟩
  all_goals
    simp only [writeAnswer_of_turns ht, reduceCtorEq, Option.some.injEq, true_and, false_and, false_or, or_false] at hcases
    exact hcases

/-- The operand of a start frame, from its control byte (R72, R101). -/
theorem startCtl_eq_of_toNat {n : BitVec 7} {ctl : Byte} (h : ctl.toNat = 0x80 + n.toNat) : startCtl n = ctl :=
  BitVec.eq_of_toNat_eq ((startCtl_toNat n).trans h.symm)

theorem contCtl_eq_of_toNat {n : BitVec 7} {ctl : Byte} (h : ctl.toNat = n.toNat) : contCtl n = ctl :=
  BitVec.eq_of_toNat_eq ((contCtl_toNat n).trans h.symm)

/-- Settles O17: both operations send the next `TXNB` bytes and then advance, their additions those of the numbers. -/
theorem transmitNonFinalFrame : Obligations.TransmitNonFinalFrame := by
  intro s rest bytes i ctl kind hi hf hr hcap hread
  have hexec : exec i s = txSend kind ctl s.txNb.toNat txAdvance s := by
    rcases hi with ⟨n, rfl, hctl, rfl⟩ | ⟨k, rfl, hctl, rfl⟩
    · rw [← startCtl_eq_of_toNat hctl]; rfl
    · rw [← contCtl_eq_of_toNat hctl]; rfl
  have hoff : BitVec.ofNat 16 (s.txOff.toNat + s.txNb.toNat) = s.txOff + s.txNb.setWidth 16 := by
    rw [BitVec.ofNat_add, BitVec.ofNat_toNat, BitVec.ofNat_toNat, BitVec.setWidth_eq]
  have hindex : BitVec.ofNat 8 (s.txI.toNat + 1) = s.txI + 1#8 := by
    rw [BitVec.ofNat_add, BitVec.ofNat_toNat, BitVec.setWidth_eq]
  rw [hexec, hoff, hindex]
  exact txSend_answers rest kind ctl txAdvance hf hr (Nat.le_of_lt_succ s.txNb.isLt) hcap hread

/-- Settles O18: both operations send the remaining bytes and then finish. -/
theorem transmitFinalFrame : Obligations.TransmitFinalFrame := by
  intro s rest bytes i ctl kind hi hf hr hoff hlast hcap hread
  have hexec : exec i s = txSend kind ctl (s.txN.toNat - s.txOff.toNat) txFinish s := by
    rcases hi with ⟨rfl, hctl, rfl⟩ | ⟨k, rfl, hctl, rfl⟩
    · rw [show ctl = 0x00#8 from BitVec.eq_of_toNat_eq hctl]; rfl
    · rw [← contCtl_eq_of_toNat hctl]; rfl
  have hnb := s.txNb.isLt
  rw [hexec]
  exact txSend_answers rest kind ctl txFinish hf hr (by omega) (by omega) hread

/-! ## The frames of a WRITE, all accepted (R104, R106, R108) -/

/-- A later state in which the device has accepted the frames `fs`, in order, and the message and the identifier are as they were. -/
structure Submits (s : State) (fs : List Frame) (t : State) : Prop where
  devLog : t.devLog = s.devLog ++ fs.map fun f => .write (carried s f) .ok
  txId : t.txId = s.txId
  txExt : t.txExt = s.txExt
  txN : t.txN = s.txN
  txNb : t.txNb = s.txNb
  mem : t.mem = s.mem
  turns : t.turns = s.turns.drop fs.length

theorem Submits.append {s u t : State} {fs gs : List Frame} (h : Submits s fs u) (k : Submits u gs t) :
    Submits s (fs ++ gs) t where
  devLog := by
    have hcarried (f : Frame) : carried u f = carried s f := by rw [carried, carried, h.txId, h.txExt]
    simp only [k.devLog, h.devLog, hcarried, List.map_append, List.append_assoc]
  txId := k.txId.trans h.txId
  txExt := k.txExt.trans h.txExt
  txN := k.txN.trans h.txN
  txNb := k.txNb.trans h.txNb
  mem := k.mem.trans h.mem
  turns := by rw [k.turns, h.turns, List.drop_drop, List.length_append]

/-- A running WRITE whose bytes not yet sent are `m` (R38, R97, R100). -/
structure Sending (s : State) (m : List Byte) : Prop where
  wires : s.wiresClear
  busy : s.txBusy = true
  remaining : s.txOff.toNat + m.length = s.txN.toNat
  lengthLegal : s.txN.toNat ≤ 896
  bytes : holdsAt s.mem (0x400 + s.txOff.toNat) m

/-- A WRITE that has completed with the whole message counted (R104). -/
structure WriteDone (t : State) : Prop where
  res : t.txRes = .ok
  idle : t.txBusy = false
  count : t.txCount = t.txN

section
variable {s : State} {m : List Byte}

theorem Sending.txFinal_iff (h : Sending s m) : txFinal s = true ↔ m.length ≤ s.txNb.toNat := by
  have hrem := h.remaining
  rw [Machine.txFinal_iff]
  omega

theorem Sending.readBytes_take (h : Sending s m) {n : Nat} (hn : n ≤ m.length) :
    Memory.readBytes s.mem (0x400 + s.txOff.toNat) n = some (m.take n) := by
  refine Memory.readBytes_eq_some.mpr ⟨List.length_take_of_le hn, fun k b hk => h.bytes k b ?_⟩
  rw [List.getElem?_take] at hk
  split at hk
  · exact hk
  · cases hk

/-- The control byte of a frame that is not the last, and its trace kind (R101). -/
theorem txClass_nonFinal (hmore : ¬txFinal s = true) {ctl : Byte} (hctl : encode (txClass s) = .segTx ctl) :
    ∃ kind, (∃ n, txClass s = .txStart n ∧ ctl.toNat = 0x80 + n.toNat ∧ kind = TraceKind.start) ∨
      (∃ k, txClass s = .txCont k ∧ ctl.toNat = k.toNat ∧ kind = .cont) := by
  rw [txClass, if_neg hmore] at hctl ⊢
  split_ifs at hctl ⊢ <;> cases hctl
  · exact ⟨_, .inl ⟨_, rfl, startCtl_toNat _, rfl⟩⟩
  · exact ⟨_, .inr ⟨_, rfl, contCtl_toNat _, rfl⟩⟩

/-- The control byte of the last frame, and its trace kind (R102). -/
theorem txClass_final (hlast : txFinal s = true) {ctl : Byte} (hctl : encode (txClass s) = .segTx ctl) :
    ∃ kind, (txClass s = .txSingle ∧ ctl.toNat = 0 ∧ kind = TraceKind.single) ∨
      (∃ k, txClass s = .txContLast k ∧ ctl.toNat = k.toNat ∧ kind = .cont) := by
  rw [txClass, if_pos hlast] at hctl ⊢
  split_ifs at hctl ⊢ <;> cases hctl
  · exact ⟨_, .inl ⟨rfl, rfl, rfl⟩⟩
  · exact ⟨_, .inr ⟨_, rfl, contCtl_toNat _, rfl⟩⟩

/-- An accepted frame that is not the last (R101). -/
theorem Sending.step_nonFinal (h : Sending s m) {rest : List Turn} (ht : s.turns = .tx (some .ok) :: rest)
    (hmore : s.txNb.toNat < m.length) {ctl : Byte} (hctl : encode (txClass s) = .segTx ctl) :
    ∃ t, step s = .next t ∧ Submits s [ctl :: m.take s.txNb.toNat] t ∧ Sending t (m.drop s.txNb.toNat) ∧
      t.txI = BitVec.ofNat 8 (s.txI.toNat + 1) := by
  obtain ⟨kind, hkind⟩ := txClass_nonFinal (mt h.txFinal_iff.mp (Nat.not_le.mpr hmore)) hctl
  have hread := h.readBytes_take hmore.le
  obtain ⟨hwires, hbusy, hrem, hlen, hbytes⟩ := h
  have ⟨_, hframe, hret⟩ := hwires
  obtain ⟨haccepted, _⟩ := transmitNonFinalFrame s rest _ _ ctl kind hkind hframe hret (by omega) hread
  refine ⟨_, by rw [step_tx_busy ht hwires hbusy, haccepted ht, mapNext_next], ?submits, ?sending, rfl⟩
  case submits => exact ⟨rfl, rfl, rfl, rfl, rfl, rfl, List.drop_one.symm⟩
  case sending =>
    have hoff : (BitVec.ofNat 16 (s.txOff.toNat + s.txNb.toNat)).toNat = s.txOff.toNat + s.txNb.toNat := by
      rw [BitVec.toNat_ofNat]
      omega
    refine ⟨⟨rfl, rfl, rfl⟩, hbusy, ?_, hlen, ?_⟩
    · show (BitVec.ofNat 16 (s.txOff.toNat + s.txNb.toNat)).toNat + (m.drop s.txNb.toNat).length = s.txN.toNat
      rw [hoff, List.length_drop]
      omega
    · show holdsAt s.mem (0x400 + (BitVec.ofNat 16 (s.txOff.toNat + s.txNb.toNat)).toNat) (m.drop s.txNb.toNat)
      intro k b hk
      rw [List.getElem?_drop] at hk
      rw [hoff, ← Nat.add_assoc, Nat.add_assoc]
      exact hbytes _ b hk

/-- The accepted last frame (R102, R104). -/
theorem Sending.step_final (h : Sending s m) {rest : List Turn} (ht : s.turns = .tx (some .ok) :: rest)
    (hlast : m.length ≤ s.txNb.toNat) {ctl : Byte} (hctl : encode (txClass s) = .segTx ctl) :
    ∃ t, step s = .next t ∧ Submits s [ctl :: m] t ∧ WriteDone t := by
  obtain ⟨kind, hkind⟩ := txClass_final (h.txFinal_iff.mpr hlast) hctl
  have hread := h.readBytes_take le_rfl
  obtain ⟨hwires, hbusy, hrem, hlen, _⟩ := h
  have ⟨_, hframe, hret⟩ := hwires
  rw [List.take_length, show m.length = s.txN.toNat - s.txOff.toNat by omega] at hread
  obtain ⟨haccepted, _⟩ := transmitFinalFrame s rest m _ ctl kind hkind hframe hret (by omega) (by omega) hlen hread
  refine ⟨_, by rw [step_tx_busy ht hwires hbusy, haccepted ht, mapNext_next], ?submits, ⟨rfl, rfl, rfl⟩⟩
  exact ⟨rfl, rfl, rfl, rfl, rfl, rfl, List.drop_one.symm⟩

/-! The control byte of the next frame (R100). -/

theorem encode_txClass_single (hi : s.txI = 0#8) (hlast : txFinal s = true) : encode (txClass s) = .segTx 0x00#8 := by
  rw [txClass, if_pos hlast, if_pos hi, encode]

theorem encode_txClass_start (hi : s.txI = 0#8) (hmore : ¬txFinal s = true) (hcount : txTotal s < 128) :
    encode (txClass s) = .segTx (BitVec.ofNat 8 (0x80 + txTotal s)) := by
  rw [txClass, if_neg hmore, if_pos hi, encode]
  congr 1
  apply startCtl_eq_of_toNat
  rw [BitVec.toNat_ofNat, BitVec.toNat_ofNat]
  omega

theorem encode_txClass_cont (hpos : 1 ≤ s.txI.toNat) (hlt : s.txI.toNat < 128) :
    encode (txClass s) = .segTx (BitVec.ofNat 8 s.txI.toNat) := by
  have hi : ¬s.txI = 0#8 := fun h => by simp [h] at hpos
  have hctl : contCtl (ctlLow s.txI) = BitVec.ofNat 8 s.txI.toNat := by
    rw [BitVec.ofNat_toNat, BitVec.setWidth_eq]
    exact contCtl_ofNat hlt
  rw [txClass, if_neg hi, if_neg hi]
  split <;> rw [encode, hctl]

end

/-- The accepted continuations, from index `TXI` on to the last (R77, R104). -/
theorem Sending.run_conts {nb k : Nat} {s : State} {m : List Byte} (h : Sending s m) (hnb : s.txNb.toNat = nb)
    (hpos : 1 ≤ s.txI.toNat) (hindex : s.txI.toNat + k < 128) (hlo : k * nb < m.length) (hhi : m.length ≤ (k + 1) * nb)
    (ht : s.turns = List.replicate (k + 1) (.tx (some .ok))) :
    ∃ t, Host.Core.run Sys2Proof.core (k + 1) s = .next t ∧ Submits s (contFrames nb s.txI.toNat m (k + 1)) t ∧ WriteDone t := by
  have hctl := encode_txClass_cont hpos (by omega)
  induction k generalizing s m with
  | zero =>
    obtain ⟨t, hstep, hsub, hdone⟩ := h.step_final ht (by omega) hctl
    refine ⟨t, run_succ hstep, ?_, hdone⟩
    rwa [contFrames, contFrames, List.take_of_length_le (by omega)]
  | succ k ih =>
    rw [Nat.add_one_mul] at hlo hhi
    have hdrop : (m.drop nb).length = m.length - nb := List.length_drop
    obtain ⟨u, hstep, hsub, hu, hi⟩ := h.step_nonFinal ht (by omega) hctl
    have hiNat : u.txI.toNat = s.txI.toNat + 1 := by
      rw [hi, BitVec.toNat_ofNat]
      omega
    rw [hnb] at hsub hu
    obtain ⟨t, hrun, hsub', hdone⟩ := ih hu (by rw [hsub.txNb, hnb]) (by omega) (by omega) (by omega) (by omega)
      (by rw [hsub.turns, ht]; rfl) (encode_txClass_cont (by omega) (by omega))
    refine ⟨t, (run_succ hstep).trans hrun, ?_, hdone⟩
    rw [hiNat] at hsub'
    exact hsub.append hsub'

/-- All frames of a message, from the start of the WRITE (R104, R108). -/
theorem Sending.run_segFrames {nb : Nat} {s : State} {m : List Byte} (h : Sending s m) (hnb : s.txNb.toNat = nb) (hpos : 1 ≤ nb)
    (hoff : s.txOff = 0#16) (hi : s.txI = 0#8) (hlen : m.length ≤ 128 * nb)
    (ht : s.turns = List.replicate (segFrames nb m).length (.tx (some .ok))) :
    ∃ t, Host.Core.run Sys2Proof.core (segFrames nb m).length s = .next t ∧ Submits s (segFrames nb m) t ∧ WriteDone t := by
  by_cases hone : m.length ≤ nb
  · rw [segFrames_single hone] at ht ⊢
    have hlast : m.length ≤ s.txNb.toNat := by omega
    obtain ⟨t, hstep, hsub, hdone⟩ := h.step_final ht hlast (encode_txClass_single hi (h.txFinal_iff.mpr hlast))
    exact ⟨t, run_succ hstep, hsub, hdone⟩
  · have hmore : s.txNb.toNat < m.length := by omega
    obtain ⟨hlo, hhi⟩ := count_bounds hpos (show 1 ≤ m.length by omega)
    have htotal : txTotal s = (m.length - 1) / nb := by
      have hrem := h.remaining
      rw [hoff, BitVec.toNat_ofNat, Nat.zero_mod, Nat.zero_add] at hrem
      rw [txTotal, hnb, hrem]
    have hcount : (m.length - 1) / nb < 128 := (Nat.div_lt_iff_lt_mul hpos).mpr (by omega)
    have hctl := encode_txClass_start hi (mt h.txFinal_iff.mp (Nat.not_le.mpr hmore)) (htotal ▸ hcount)
    obtain ⟨k, hk⟩ : ∃ k, (m.length - 1) / nb = k + 1 := Nat.exists_eq_add_one.mpr (Nat.div_pos (by omega) hpos)
    rw [htotal, hk] at hctl
    rw [segFrames_many (by omega), List.length_cons, length_contFrames, hk] at ht ⊢
    rw [hk] at hlo hhi hcount
    rw [Nat.add_one_mul] at hlo hhi
    obtain ⟨u, hstep, hsub, hu, hiu⟩ := h.step_nonFinal ht hmore hctl
    have hiNat : u.txI.toNat = 1 := by rw [hiu, hi]; rfl
    have hdrop : (m.drop nb).length = m.length - nb := List.length_drop
    rw [hnb] at hsub hu
    obtain ⟨t, hrun, hsub', hdone⟩ := hu.run_conts (k := k) (by rw [hsub.txNb, hnb]) (by omega) (by omega) (by omega)
      (by rw [Nat.add_one_mul]; omega) (by rw [hsub.turns, ht]; rfl)
    rw [hiNat] at hsub'
    exact ⟨t, (run_succ hstep).trans hrun, hsub.append hsub', hdone⟩

/-- Settles O58: every frame of `segFrames` is the frame of one step, by induction over the continuations after the first. -/
theorem writeSubmitsTheFrames : Obligations.WriteSubmitsTheFrames := by
  intro s m hwires hbusy hoff hi hpos hn hlen hbytes
  generalize hnb : s.txNb.toNat = nb at *
  have hnbLt := s.txNb.isLt
  have hsending : Sending { s with turns := List.replicate (segFrames nb m).length (.tx (some .ok)) } m := by
    refine ⟨hwires, hbusy, ?_, show s.txN.toNat ≤ 896 by omega, ?_⟩
    · show s.txOff.toNat + m.length = s.txN.toNat
      rw [hoff, BitVec.toNat_ofNat, Nat.zero_mod, Nat.zero_add, hn]
    · show holdsAt s.mem (0x400 + s.txOff.toNat) m
      rw [hoff]
      exact hbytes
  obtain ⟨t, hrun, hsub, hdone⟩ := hsending.run_segFrames hnb hpos hoff hi hlen rfl
  exact ⟨t, hrun, hsub.devLog, hdone.res, hdone.idle, hdone.count.trans hsub.txN, hsub.mem,
    hsub.turns.trans (List.drop_eq_nil_of_le List.length_replicate.le)⟩

/-! ## The end of a WRITE within 128 answers (R98, R190) -/

theorem TxInv.txOff_le {s : State} (h : TxInv s) : s.txOff.toNat ≤ s.txN.toNat := by
  rcases h.remains with hi | hlt
  · have hoff := h.offset
    rw [hi, BitVec.toNat_ofNat, Nat.zero_mod, Nat.zero_mul] at hoff
    omega
  · exact hlt.le

/-- Every part of the message of a running WRITE can be read (R97, R99). -/
theorem TxInv.memRead_isSome {s : State} (h : TxInv s) {n : Nat} (hn : s.txOff.toNat + n ≤ s.txN.toNat) :
    (memRead .tx s.txOff.toNat n s.mem).isSome = true := by
  have hlen := h.lengthLegal
  have hnb := s.txNb.isLt
  have hcap : s.txOff.toNat + n ≤ Config.msgCap := show s.txOff.toNat + n ≤ 896 by omega
  rw [memRead, if_pos hcap, Memory.readBytes_isSome]
  intro k hk
  rw [Nat.add_assoc]
  exact h.messageWritten (s.txOff.toNat + k) (by omega)

/-- Under the invariant a TX engine's move always goes on (R158). -/
theorem Inv.step_tx {s : State} {a : Option Answer} {rest : List Turn} (h : Inv s) (ht : s.turns = .tx a :: rest) :
    ∃ t, step s = .next t ∧ TxMoved s a rest t := by
  rcases Machine.step_tx ht h.wires with hnext | ⟨hb, hnone, _⟩
  · exact hnext
  · have htx := h.txRunning hb
    have hoff := htx.txOff_le
    have hsome := htx.memRead_isSome (n := min (txRem s) s.txNb.toNat) (by rw [txRem]; omega)
    rw [hnone] at hsome
    cases hsome

/-- A WRITE that has run and ended (R103, R104). -/
def WriteEnded (s : State) : Prop := s.txBusy = false ∧ (s.txRes = .ok ∨ s.txRes = .devWriteErr)

/-- A WRITE that has ended, or whose index reaches 128 if each of the `n` answers to come advances it. -/
def EndsWithin (n : Nat) (s : State) : Prop := WriteEnded s ∨ (s.txBusy = true ∧ 128 ≤ s.txI.toNat + n)

/-- With no answer to come it has ended: no index of a running WRITE is 128 (R98). -/
theorem Inv.writeEnded_of_endsWithin_zero {s : State} (h : Inv s) (he : EndsWithin 0 s) : WriteEnded s := by
  rcases he with hend | ⟨hb, hindex⟩
  · exact hend
  · have htx := h.txRunning hb
    rcases htx.remains with hi | hlt
    · simp [hi] at hindex
    · have := htx.index_lt (k := 0) (by omega)
      omega

/-- Each answer ends the WRITE or raises its index by one (R101 to R103). -/
theorem endsWithin_of_txMoved {s t : State} {a : Answer} {rest : List Turn} {n : Nat} (h : Inv s) (he : EndsWithin (n + 1) s)
    (hm : TxMoved s (some a) rest t) : EndsWithin n t := by
  cases hm with
  | still why =>
    have hidle : s.txBusy = false := why.resolve_right (by simp)
    exact .inl (he.resolve_right (by simp [hidle]))
  | fail => exact .inl ⟨rfl, .inr rfl⟩
  | finish => exact .inl ⟨rfl, .inl rfl⟩
  | advance busy _ more =>
    have hindex := (he.resolve_left (by simp [WriteEnded, busy])).2
    have hlt := (h.txRunning busy).index_lt (k := 1) (by omega)
    refine .inr ⟨busy, ?_⟩
    show 128 ≤ (s.txI + 1#8).toNat + n
    rw [BitVec.toNat_add, BitVec.toNat_ofNat]
    omega

theorem run_tx_answers (answers : List Answer) {s : State} (h : Inv s) (ht : s.turns = answers.map fun a => .tx (some a))
    (he : EndsWithin answers.length s) :
    ∃ t, Host.Core.run Sys2Proof.core answers.length s = .next t ∧ WriteEnded t := by
  induction answers generalizing s with
  | nil => exact ⟨s, rfl, h.writeEnded_of_endsWithin_zero he⟩
  | cons a answers ih =>
    obtain ⟨u, hstep, hm⟩ := h.step_tx ht
    have hturns : u.turns = answers.map fun a => .tx (some a) := by cases hm <;> rfl
    obtain ⟨t, hrun, hend⟩ := ih (inv_txMoved h hm) hturns (endsWithin_of_txMoved h he hm)
    exact ⟨t, (run_succ hstep).trans hrun, hend⟩

/-- Settles O60: from index 0 on, 128 answers are more than the index can count. -/
theorem writeEndsWithin128Answers : Obligations.WriteEndsWithin128Answers := by
  intro s answers h hb hlen
  exact run_tx_answers answers { h with txRunning := fun hb => { h.txRunning hb with } } rfl
    (.inr ⟨hb, Nat.le_add_left_of_le hlen⟩)

end Sys2Proof.Machine
end

section
/-! PROOFS. READ, instruction by instruction: its issue and the six receive classes (41_seg_read.md R110 to R118). -/

namespace Sys2Proof.Machine

/-! ## The issue of a READ (R110, R112) -/

/-- A READ that completes at issue leaves the RX engine idle, as it was. -/
theorem complete_issueRead {s : State} (hb : s.rxBusy = false) (r : Res) :
    complete .rx r (issueRead s) = { s with rxLen := 0#16, rxRes := r } := by
  simp only [complete, issueRead, issue, hb]

/-- Settles O15: the checks of the issue are the branches of `execCmdRead`. -/
theorem readCommand : Obligations.ReadCommand := by
  intro s
  rw [exec, execCmdRead]
  refine ⟨fun hbusy => if_pos ((readIllegal_iff s).mpr hbusy), fun hb hc => ?_⟩
  rw [if_neg (by simp [readIllegal_iff, hb, hc])]
  refine ⟨fun hopen => ?_, fun hclosed => ?_⟩
  · rw [if_pos hopen]
    rfl
  · rw [if_neg (by simp [hclosed]), complete_issueRead hb]

/-! ## The anomalies (R113, R115, R118) -/

/-- An anomaly's effect, with the frame the decoder holds. -/
theorem rxAnomaly_eq (f : Frame) (s : State) : rxAnomaly f s = { s with
    errCnt := s.errCnt + 1#32, trace := traced s .rx .unknown f, rxFrame := none } := rfl

theorem delivered_of_rxFrame {s : State} {f : Frame} (h : s.rxFrame = some f) : delivered s = f := by
  rw [delivered, h, Option.getD_some]

/-- A class of a non-empty frame fixes the frame's control byte, since it has the frame's decode word (R79). -/
theorem decodeCtl_injective {iCont : Byte} {st : RxState} {ctl ctl' : Byte}
    (h : decodeCtl iCont st ctl = decodeCtl iCont st ctl') : ctl = ctl' := by
  have hword (b : Byte) : encode (decodeCtl iCont st b) = .segRx (dw st true b) :=
    (decodeCtl_word ⟨iCont, false, 0#32, false⟩ st b).2
  have hdw : dw st true ctl = dw st true ctl' := Encoded.segRx.inj ((hword ctl).symm.trans ((congrArg encode h).trans (hword ctl')))
  rw [← dw_ctl st true ctl, hdw, dw_ctl]

/-- Settles O20: the anomaly, then the resynchronisation, whichever the state. -/
theorem receiveZeroLength : Obligations.ReceiveZeroLength := by
  intro s st _
  refine ⟨rfl, ?_⟩
  rw [exec, execRxZeroLen, rxAnomaly_eq, resync]

/-- A frame is malformed in S0 exactly with the index 1 to 127 (R78). -/
theorem decodeCtl_eq_malformed_iff (iCont ctl : Byte) (n : BitVec 7) :
    decodeCtl iCont .s0 ctl = .rxMalformed n ↔ ctl = contCtl n ∧ n ≠ 0#7 := by
  refine ⟨fun h => ?_, fun ⟨hctl, hn⟩ => hctl ▸ decodeCtl_malformed iCont hn⟩
  have hn : n ≠ 0#7 := by
    rintro rfl
    have hwf := wf_decodeCtl (iCont := 1#8) (by decide) .s0 ctl
    rw [show decodeCtl 1#8 .s0 ctl = decodeCtl iCont .s0 ctl from rfl, h] at hwf
    cases hwf
  exact ⟨decodeCtl_injective (h.trans (decodeCtl_malformed iCont hn).symm), hn⟩

/-- Settles O22: the class by its control byte, and the anomaly. -/
theorem receiveMalformed : Obligations.ReceiveMalformed := by
  intro s n f hf
  refine ⟨fun ctl p hcons h0 => ?_, ?_⟩
  · rw [hcons, rxClass_cons, h0, decodeCtl_eq_malformed_iff, ← BitVec.toNat_inj, contCtl_toNat]
  · rw [exec, execRxMalformed, delivered_of_rxFrame hf, rxAnomaly_eq]

/-- In S1 a frame is out of sequence exactly if it has the start bit or another index than ICONT (R78). -/
theorem decodeCtl_eq_outOfSeq_iff (iCont ctl : Byte) :
    decodeCtl iCont .s1 ctl = .rxOutOfSeq ctl ↔ ctlStart ctl = true ∨ ctl ≠ iCont := by
  refine ⟨fun h => ?_, decodeCtl_outOfSeq⟩
  by_contra hc
  simp only [not_or, Bool.not_eq_true, not_not] at hc
  rw [decodeCtl, if_pos hc] at h
  cases h

/-- Settles O25: the class by its control byte, and the anomaly with the message abandoned. -/
theorem receiveOutOfSequence : Obligations.ReceiveOutOfSequence := by
  intro s ctl f hf
  refine ⟨fun p hcons h1 => ?_, ?_⟩
  · rw [hcons, rxClass_cons, h1, decodeCtl_eq_outOfSeq_iff, ctlStart_iff]
  · rw [exec, execRxOutOfSeq, delivered_of_rxFrame hf, rxAnomaly_eq, resync]

/-! ## The accepted frames (R114, R116, R117) -/

/-- An accepted frame whose payload RXBUF holds: stored, counted in RX_LEN and traced. -/
theorem rxAccept_stored {s : State} {ctl : Byte} {p : List Byte} (hf : s.rxFrame = some (ctl :: p)) (kind : TraceKind)
    {off : Nat} (hcap : off + p.length ≤ 896) (done : State → State) :
    rxAccept kind off done s = .next (done { s with
      mem := Memory.writeBytes s.mem (0x800 + off) p, rxLen := BitVec.ofNat 16 (off + p.length)
      trace := traced s .rx kind (ctl :: p), rxFrame := none }) := by
  have hpay : payload (delivered s) = p := by rw [delivered_of_rxFrame hf]; rfl
  rcases rxAccept_cases (kind := kind) (off := off) (done := done) (s := s) with ⟨hover, _⟩ | ⟨_, e⟩
  · rw [hpay] at hover
    omega
  · rw [e, hpay, delivered_of_rxFrame hf]
    rfl

/-- An accepted frame at the start of RXBUF, as a single or a start frame is stored. -/
theorem rxAccept_stored_first {s : State} {ctl : Byte} {p : List Byte} (hf : s.rxFrame = some (ctl :: p)) (kind : TraceKind)
    (hcap : p.length ≤ 896) (done : State → State) :
    rxAccept kind 0 done s = .next (done { s with
      mem := Memory.writeBytes s.mem 0x800 p, rxLen := BitVec.ofNat 16 p.length
      trace := traced s .rx kind (ctl :: p), rxFrame := none }) := by
  have h := rxAccept_stored hf kind (off := 0) (by rwa [Nat.zero_add]) done
  rwa [Nat.zero_add] at h

theorem holdsAt_writeBytes (m : Memory) (lo : Nat) (v : List Byte) : holdsAt (Memory.writeBytes m lo v) lo v :=
  fun _ _ hk => Memory.read_writeBytes_inside m lo v hk

/-- Settles O21: the class by its control byte, and the frame accepted at offset 0. -/
theorem receiveSingle : Obligations.ReceiveSingle := by
  intro s ctl p hf hp
  refine ⟨fun h0 => ?_, _, rxAccept_stored_first hf .single (by omega) (complete .rx .ok), holdsAt_writeBytes _ _ p,
    sameOutside_writeBytes _ _ p⟩
  rw [rxClass_cons, h0]
  exact ⟨decodeCtl_injective (ctl' := 0x00#8), fun hctl => hctl ▸ rfl⟩

/-- Settles O23: the class by its control byte, and the frame accepted at offset 0. -/
theorem receiveStart : Obligations.ReceiveStart := by
  intro s n ctl p hf hp
  refine ⟨fun h0 => ?_, _, rxAccept_stored_first hf .start (by omega) (rxBegin n), holdsAt_writeBytes _ _ p,
    sameOutside_writeBytes _ _ p⟩
  rw [rxClass_cons, h0, ← startCtl_toNat, BitVec.toNat_inj, ← decodeCtl_start s.iCont]
  exact ⟨decodeCtl_injective, congrArg _⟩

/-- In S1 a frame is a continuation exactly with the index ICONT (R78). -/
theorem decodeCtl_eq_cont_iff (iCont ctl : Byte) (i : BitVec 7) :
    decodeCtl iCont .s1 ctl = .rxCont i ↔ ctl = contCtl i ∧ ctl = iCont := by
  rw [decodeCtl]
  split_ifs with hc
  · obtain ⟨hs, rfl⟩ := hc
    rw [Instr.rxCont.injEq, and_iff_left rfl]
    exact ⟨fun hi => by rw [← hi, contCtl_ctlLow hs], fun hi => by rw [hi, ctlLow_contCtl]⟩
  · refine iff_of_false nofun fun ⟨hi, hiCont⟩ => hc ⟨?_, hiCont⟩
    rw [hi, ctlStart_contCtl]

/-- Settles O24: the class by its control byte, and the frame accepted at RX_LEN, its index NCONT or not. -/
theorem receiveContinuation : Obligations.ReceiveContinuation := by
  intro s i ctl p hf hcap
  have hexec := rxAccept_stored hf .cont hcap rxContinue
  refine ⟨fun h1 => ?_, _, holdsAt_writeBytes _ _ p, sameOutside_writeBytes _ _ p, fun hlast => ?_, fun hmore => ?_⟩
  · rw [rxClass_cons, h1, decodeCtl_eq_cont_iff, ← contCtl_toNat, BitVec.toNat_inj]
  · exact hexec.trans (congrArg Host.Outcome.next (rxContinue_last (by exact hlast)))
  · have hnext : BitVec.ofNat 8 (s.iCont.toNat + 1) = s.iCont + 1#8 := by
      rw [BitVec.ofNat_add, BitVec.ofNat_toNat, BitVec.setWidth_eq]
    rw [hnext]
    exact hexec.trans (congrArg Host.Outcome.next (rxContinue_more (by exact hmore)))

end Sys2Proof.Machine
end

section
/-! PROOFS. The moves of a READ: none faults, OK has two sources, a count-0 start has none, and a READ can wait
(41_seg_read.md R121, R122, R129, R130, 60_exceptions.md R158). -/

namespace Sys2Proof.Machine

/-! ## No engine's move faults (R121, R158) -/

/-- Under the invariant a payload of at most 7 bytes fits RXBUF, whichever frame it stands in (R121). -/
theorem Inv.payload_fits {s : State} {m : CanMsg} {q : List CanMsg} (h : Inv s) (head : s.q = m :: q) :
    (payload m.data).length ≤ 896 ∧
    (s.rxState = .s1 → (∃ i, contCtl i = s.iCont) → s.rxLen.toNat + (payload m.data).length ≤ 896) := by
  have hpay := payload_length_le (h.queuePayload m (head ▸ List.mem_cons_self))
  refine ⟨by omega, fun h1 ⟨i, hi⟩ => ?_⟩
  have hindex := iCont_lt_of_contCtl hi
  have hlen := h.s1Length h1
  omega

/-- Under the invariant an RX engine's move goes on, but for a batch that no device gives (R132, R158). -/
theorem Inv.step_rx {s : State} {a : Option ReadAnswer} {rest : List Turn} (h : Inv s) (ht : s.turns = .rx a :: rest) :
    (∃ t, step s = .next t) ∨ ∃ ms, a = some (.batch ms) ∧ batchOk ms = false := by
  rcases Machine.step_rx ht h.wires with ⟨t, hstep, _⟩ | ⟨ms, ha, hbad, _⟩ | ⟨m, q, _, head, _, hover, _⟩
  · exact .inl ⟨t, hstep⟩
  · exact .inr ⟨ms, ha, hbad⟩
  · obtain ⟨hfirst, hcont⟩ := h.payload_fits head
    rcases hover with hover | ⟨h1, hi, hover⟩
    · omega
    · have hfits := hcont h1 hi
      omega

/-- Settles O42: by agent; the buffers' bounds of the invariant rule out the engines' own faults. -/
theorem engineMovesNeverFault : Obligations.EngineMovesNeverFault := by
  intro s u rest h ht hengine
  cases u with
  | host off acc => cases hengine
  | bus addr acc => cases hengine
  | ctl a =>
    obtain ⟨t, hstep, _⟩ := step_ctl ht h.wires
    exact .inl ⟨t, hstep⟩
  | tx a =>
    obtain ⟨t, hstep, _⟩ := h.step_tx ht
    exact .inl ⟨t, hstep⟩
  | rx a =>
    refine (h.step_rx ht).imp_right fun ⟨ms, ha, hbad⟩ => ⟨ms, by rw [ha], fun hok => ?_⟩
    rw [(batchOk_iff ms).mpr hok] at hbad
    cases hbad
  | reset => exact .inl ⟨_, step_reset ht⟩

/-! ## The sources of a READ's OK (R129) -/

/-- No host access makes a READ's result OK (R85, R110). -/
theorem Accessed.rxRes_ne_ok {s t : State} (h : Accessed s t) (hs : s.rxRes ≠ .ok) : t.rxRes ≠ .ok := by
  cases h with
  | read | store => exact hs
  | command t issued =>
    cases issued with
    | readNotOpen | read => exact nofun
    | error | ctl | closeNotOpen | writeNotOpen | writeTooLong | write => exact hs
  | register t done => cases done <;> exact hs

theorem step_host_rxRes_ne_ok {s t : State} {u : Turn} {rest : List Turn} (ht : s.turns = u :: rest) (hu : u.isHost = true)
    (h : step s = .next t) (hs : s.rxRes ≠ .ok) : t.rxRes ≠ .ok := by
  obtain ⟨s', rfl, rfl | ha⟩ := step_host_next ht hu h
  · exact hs
  · exact ha.rxRes_ne_ok hs

/-- The frames whose decode completes a READ (R114, R117). -/
theorem Decoded.completes {s t : State} {q : List CanMsg} {rest : List Turn} {f : Frame} (h : Decoded s q rest f t)
    (hs : s.rxRes ≠ .ok) (hok : t.rxRes = .ok) :
    rxClass s f = .rxSingle ∨ ∃ i, rxClass s f = .rxCont i ∧ s.iCont.toNat = s.nCont.toNat := by
  cases h with
  | anomaly | start | cont => exact absurd hok hs
  | single kind => exact .inl kind
  | last i kind _ _ _ done => exact .inr ⟨i, kind, done⟩

/-- Settles O47: by agent; of an RX engine's moves only the decode of a frame completes OK. -/
theorem readOkOnlyFromWholeMessage : Obligations.ReadOkOnlyFromWholeMessage := by
  intro s t hw h hs hok
  cases ht : s.turns with
  | nil =>
    rw [step_of_select_idle (by simp only [select, ht])] at h
    cases h
    exact absurd hok hs
  | cons u rest =>
    cases u with
    | host off acc => exact absurd hok (step_host_rxRes_ne_ok ht rfl h hs)
    | bus addr acc => exact absurd hok (step_host_rxRes_ne_ok ht rfl h hs)
    | ctl a => cases ctlMoved_of_step ht hw h <;> exact absurd hok hs
    | tx a => cases txMoved_of_step ht hw h <;> exact absurd hok hs
    | rx a =>
      cases rxMoved_of_step ht hw h with
      | still | fetch | skip => exact absurd hok hs
      | fail _ _ r _ why =>
        obtain rfl : r = .ok := hok
        rcases why with ⟨_, hr⟩ | ⟨_, hr⟩ <;> cases hr
      | deliver busy m q head verdict t decoded =>
        have hd : decodesNext s = some (rxClass s m.data) := by
          rw [decodesNext_rx_cons ht head, busy, verdict]
          rfl
        rw [hd]
        exact (decoded.completes hs hok).imp (congrArg some) fun ⟨i, kind, done⟩ => ⟨i, congrArg some kind, done⟩
    | reset =>
      cases h.symm.trans (step_reset ht)
      cases hok

/-! ## A start with count 0 (R122, decision D15) -/

/-- What a step decodes is the class of some frame (R137). -/
theorem rxClass_of_decodesNext {s : State} {i : Instr} (h : decodesNext s = some i) : ∃ f, rxClass s f = i := by
  unfold decodesNext at h
  split at h
  · next m _ _ _ =>
    split at h
    · exact ⟨m.data, Option.some.inj h⟩
    · cases h
  · cases h

theorem rxClass_ne_single {s : State} (h1 : s.rxState = .s1) (f : Frame) : rxClass s f ≠ .rxSingle := by
  cases f with
  | nil => exact nofun
  | cons ctl p =>
    rw [rxClass_cons, h1, decodeCtl]
    split_ifs <;> exact nofun

/-- Settles O55: OK would need a single frame, which S1 does not accept, or a continuation of index 0, which S1 does not expect;
and no control byte without the start bit is 128. -/
theorem countZeroStartNeverCompletes : Obligations.CountZeroStartNeverCompletes := by
  intro s h h1 hzero
  obtain ⟨hindex, busy⟩ := h.s1Running h1
  refine ⟨fun t hstep hok => ?never, fun hfull ctl p => ?outOfSeq⟩
  case never =>
    have hs : s.rxRes ≠ .ok := by simp [h.rxResNone busy]
    rcases readOkOnlyFromWholeMessage s t h.wires hstep hs hok with hsingle | ⟨_, _, hlast⟩
    · obtain ⟨f, hf⟩ := rxClass_of_decodesNext hsingle
      exact rxClass_ne_single h1 f hf
    · rw [hlast, hzero] at hindex
      exact absurd hindex (by decide)
  case outOfSeq =>
    rw [rxClass_cons, h1]
    refine decodeCtl_outOfSeq (or_iff_not_imp_right.mpr fun hctl => ?_)
    rw [not_not.mp hctl, ctlStart_iff, hfull]

/-! ## A READ that waits (R130, R172) -/

/-- The end of a step whose wires carry nothing only spends the move. -/
theorem endTurn_of_turns {s : State} {u : Turn} {rest : List Turn} (hw : s.wiresClear) (ht : s.turns = u :: rest) :
    endTurn s = { s with turns := rest } := by
  rw [endTurn_clear hw, ht, List.tail_cons]

/-- An RX engine whose queue is empty waits for the device's answer (R132, R138). -/
theorem step_rx_wait {s : State} (hw : s.wiresClear) (hb : s.rxBusy = true) (hq : s.q = []) (rest : List Turn) :
    step { s with turns := .rx none :: rest } = .next { s with turns := rest } := by
  rw [step_rx_fetch (s := { s with turns := .rx none :: rest }) rfl hw hb hq]
  exact congrArg Host.Outcome.next (endTurn_of_turns (by exact hw) rfl)

/-- Settles O56: by induction on the number of moves, each of which only spends itself. -/
theorem readWaitsWithoutBound : Obligations.ReadWaitsWithoutBound := by
  intro n s hw hb hq
  induction n with
  | zero => rfl
  | succ n ih => exact (run_succ (step_rx_wait hw hb hq _)).trans ih

end Sys2Proof.Machine
end

section
/-! PROOFS. A READ given the frames of a message returns the message (41_seg_read.md R131). -/

namespace Sys2Proof.Machine

/-! ## The other moves of a READ (R137, R138, R140 to R142) -/

section
variable {s : State} (hw : s.wiresClear) (hb : s.rxBusy = true) (rest : List Turn)
include hw hb

/-- A batch of the device contract fills the empty queue (R138). -/
theorem step_rx_batch (hq : s.q = []) {ms : List CanMsg} (hgood : goodAnswer (some (.batch ms))) :
    step { s with turns := .rx (some (.batch ms)) :: rest } =
      .next { s with q := ms, devLog := s.devLog ++ [.read (.batch ms)], turns := rest } := by
  obtain ⟨hne, hok⟩ := hgood
  rw [step_rx_fetch (s := { s with turns := .rx (some (.batch ms)) :: rest }) rfl hw hb hq]
  simp only [exec, execDevqFetch, readAnswer, (batchOk_iff ms).mpr hok, hne, Bool.true_eq_false, if_false, logDevice]
  exact congrArg Host.Outcome.next (endTurn_of_turns (by exact hw) rfl)

section
variable (a : Option ReadAnswer) {msg : CanMsg} {q : List CanMsg} (hq : s.q = msg :: q)
include hq

/-- A message that does not pass only leaves the queue (R140, R141, R142). -/
theorem step_rx_skip (hp : passes s msg = false) :
    step { s with turns := .rx a :: rest } = .next { s with q := q, turns := rest } := by
  rw [step_rx_message (s := { s with turns := .rx a :: rest }) rfl hw hb hq,
    runInstr_skip (s := { s with turns := .rx a :: rest }) hp, hq]
  exact congrArg Host.Outcome.next (endTurn_of_turns (by exact hw) rfl)

/-- A message that passes is decoded in its step (R137, R143). -/
theorem step_rx_deliver (hp : passes s msg = true) :
    step { s with turns := .rx a :: rest } =
      mapNext endTurn (exec (rxClass s msg.data) { s with q := q, rxFrame := some msg.data, turns := .rx a :: rest }) := by
  rw [step_rx_message (s := { s with turns := .rx a :: rest }) rfl hw hb hq,
    runInstr_match (s := { s with turns := .rx a :: rest }) hq hp]
  rfl

end

end

/-- Once the READ has ended, its engine's moves only spend themselves (R15, R138). -/
theorem run_rx_idle (answers : List (Option ReadAnswer)) {s : State} (hw : s.wiresClear) (hb : s.rxBusy = false) :
    Host.Core.run Sys2Proof.core answers.length ({ s with turns := answers.map .rx } : State) =
      .next ({ s with turns := [] } : State) := by
  induction answers with
  | nil => rfl
  | cons a answers ih =>
    have hidle : step { s with turns := .rx a :: answers.map .rx } = .next { s with turns := answers.map .rx } := by
      rw [step_rx_idle (s := { s with turns := .rx a :: answers.map .rx }) rfl hb]
      exact congrArg Host.Outcome.next (endTurn_of_turns (by exact hw) rfl)
    exact (run_succ hidle).trans ih

/-! ## The frames still to come -/

/-- The frames that a READ between two steps still needs to return the message `m`, cut at `nb` bytes: all of them in S0, and
in S1, with the bytes `u` assembled, the continuations that carry the rest `v` (R111, R117). -/
inductive Awaits (nb : Nat) (m : List Byte) (s : State) : List Frame → Prop where
  | single (state : s.rxState = .s0) : Awaits nb m s [0x00#8 :: m]
  | start (n : BitVec 7) (k : Nat) (state : s.rxState = .s0) (count : n.toNat = k + 1) (rest : m.length ≤ (k + 2) * nb) :
      Awaits nb m s ((startCtl n :: m.take nb) :: contFrames nb 1 (m.drop nb) (k + 1))
  | cont (u v : List Byte) (k : Nat) (state : s.rxState = .s1) (count : s.iCont.toNat + k = s.nCont.toNat) (whole : u ++ v = m)
      (rest : v.length ≤ (k + 1) * nb) (length : s.rxLen.toNat = u.length)
      (assembled : Memory.readBytes s.mem 0x800 u.length = some u) :
      Awaits nb m s ((s.iCont :: v.take nb) :: contFrames nb (s.iCont.toNat + 1) (v.drop nb) k)

/-- A READ that has returned the message `m` (R131). -/
structure Returned (m : List Byte) (t : State) : Prop where
  res : t.rxRes = .ok
  idle : t.rxBusy = false
  length : t.rxLen.toNat = m.length
  bytes : Memory.readBytes t.mem 0x800 m.length = some m

section
variable {nb : Nat} {m : List Byte} {s : State} {f : Frame} {fs : List Frame}

/-- A READ in S0 needs the frames that a WRITE of the message submits (R76, R108). -/
theorem awaits_segFrames (state : s.rxState = .s0) (hpos : 1 ≤ nb) (hlen : m.length ≤ 128 * nb) :
    Awaits nb m s (segFrames nb m) := by
  by_cases hone : m.length ≤ nb
  · rw [segFrames_single hone]
    exact .single state
  · obtain ⟨_, hhi⟩ := count_bounds hpos (show 1 ≤ m.length by omega)
    have hcount : (m.length - 1) / nb < 128 := (Nat.div_lt_iff_lt_mul hpos).mpr (by omega)
    obtain ⟨k, hk⟩ : ∃ k, (m.length - 1) / nb = k + 1 := Nat.exists_eq_add_one.mpr (Nat.div_pos (by omega) hpos)
    rw [hk] at hhi hcount
    have hn : (BitVec.ofNat 7 (k + 1)).toNat = k + 1 := by
      rw [BitVec.toNat_ofNat]
      omega
    have hctl : startCtl (BitVec.ofNat 7 (k + 1)) = BitVec.ofNat 8 (0x80 + (k + 1)) := by
      apply startCtl_eq_of_toNat
      rw [hn, BitVec.toNat_ofNat]
      omega
    rw [segFrames_many (by omega), hk, ← hctl]
    exact .start _ k state hn (by rw [Nat.add_one_mul]; exact hhi)

/-- A READ in S1 needs the continuations from index ICONT on (R77, R117). -/
theorem awaits_contFrames {u v : List Byte} {k : Nat} (state : s.rxState = .s1) (count : s.iCont.toNat + k = s.nCont.toNat)
    (whole : u ++ v = m) (rest : v.length ≤ (k + 1) * nb) (length : s.rxLen.toNat = u.length)
    (assembled : Memory.readBytes s.mem 0x800 u.length = some u) :
    Awaits nb m s (contFrames nb s.iCont.toNat v (k + 1)) := by
  have h := Awaits.cont u v k state count whole rest length assembled
  rwa [contFrames, BitVec.ofNat_toNat, BitVec.setWidth_eq]

/-- The frames needed depend on the receiver's own state and the buffer alone. -/
theorem Awaits.congr {t : State} (h : Awaits nb m s fs) (hstate : t.rxState = s.rxState) (hindex : t.iCont = s.iCont)
    (hcount : t.nCont = s.nCont) (hlen : t.rxLen = s.rxLen) (hmem : t.mem = s.mem) : Awaits nb m t fs := by
  cases h with
  | single state => exact .single (hstate.trans state)
  | start n k state count rest => exact .start n k (hstate.trans state) count rest
  | cont u v k state count whole rest length assembled =>
    rw [← hindex] at count ⊢
    rw [← hcount] at count
    rw [← hlen] at length
    rw [← hmem] at assembled
    exact .cont u v k (hstate.trans state) count whole rest length assembled

/-- A length that RXBUF holds is counted in RX_LEN whole (R33). -/
theorem toNat_rxLen {n : Nat} (h : n ≤ 896) : (BitVec.ofNat 16 n).toNat = n := by
  rw [BitVec.toNat_ofNat]
  omega

/-- The continuation expected in S1 (R78). -/
theorem rxClass_expected (state : s.rxState = .s1) (hindex : s.iCont.toNat < 128) (p : List Byte) :
    rxClass s (s.iCont :: p) = .rxCont (BitVec.ofNat 7 s.iCont.toNat) := by
  rw [rxClass_cons, state, decodeCtl_eq_cont_iff, contCtl_ofNat hindex]
  exact ⟨rfl, rfl⟩

/-- The bytes of a message after the first payload, counted by the frames that carry them (R77). -/
theorem length_drop_le {v : List Byte} {k : Nat} (h : v.length ≤ (k + 1 + 1) * nb) : (v.drop nb).length ≤ (k + 1) * nb := by
  rwa [List.length_drop, Nat.sub_le_iff_le_add, ← Nat.add_one_mul]

/-- The next frame of the message is accepted: the message is returned with the last one, and until then the frames after it are
needed (R114, R116, R117). -/
theorem Awaits.exec_rxClass (h : Awaits nb m s (f :: fs)) (hcap : m.length ≤ 896) (hb : s.rxBusy = true) (q : List CanMsg) :
    ∃ t, exec (rxClass s f) { s with q := q, rxFrame := some f } = .next t ∧ t.errCnt = s.errCnt ∧ t.q = q ∧
      (Returned m t ∨ (t.rxBusy = true ∧ Awaits nb m t fs)) := by
  cases h with
  | single state =>
    rw [rxClass_cons, state]
    exact ⟨_, rxAccept_stored_first rfl .single hcap (complete .rx .ok), rfl, rfl,
      .inl ⟨rfl, rfl, toNat_rxLen hcap, Memory.readBytes_writeBytes _ _ m⟩⟩
  | start n k state count rest =>
    have htake : (m.take nb).length ≤ 896 := (List.length_take_le' nb m).trans hcap
    have hcount : (1#8).toNat + k = n.toNat := (Nat.add_comm 1 k).trans count.symm
    rw [rxClass_cons, state, decodeCtl_start]
    exact ⟨_, rxAccept_stored_first rfl .start htake (rxBegin n), rfl, rfl, .inr ⟨hb,
      awaits_contFrames rfl hcount (List.take_append_drop nb m) (length_drop_le rest) (toNat_rxLen htake)
        (Memory.readBytes_writeBytes _ _ _)⟩⟩
  | cont u v k state count whole rest length assembled =>
    have hsum : u.length + v.length = m.length := by rw [← whole, List.length_append]
    have htake : (v.take nb).length ≤ v.length := List.length_take_le' nb v
    have hfits : s.rxLen.toNat + (v.take nb).length ≤ 896 := by omega
    have hlen : (BitVec.ofNat 16 (s.rxLen.toNat + (v.take nb).length)).toNat = (u ++ v.take nb).length := by
      rw [toNat_rxLen hfits, length, List.length_append]
    have hbytes : Memory.readBytes (Memory.writeBytes s.mem (0x800 + s.rxLen.toNat) (v.take nb)) 0x800
        (u ++ v.take nb).length = some (u ++ v.take nb) := by
      rw [length, List.length_append]
      exact Memory.readBytes_append _ assembled
    have hexec := rxAccept_stored (s := { s with q := q, rxFrame := some (s.iCont :: v.take nb) }) rfl .cont hfits rxContinue
    rw [rxClass_expected state (by omega)]
    cases k with
    | zero =>
      have hall : u ++ v.take nb = m := by rw [List.take_of_length_le (by omega), whole]
      rw [hall] at hlen hbytes
      exact ⟨_, hexec.trans (congrArg Host.Outcome.next (rxContinue_last (by exact count))), rfl, rfl,
        .inl ⟨rfl, rfl, hlen, hbytes⟩⟩
    | succ k =>
      have hmore : s.iCont.toNat ≠ s.nCont.toNat := by omega
      have hnext : (s.iCont + 1#8).toNat = s.iCont.toNat + 1 := by
        rw [BitVec.toNat_add, BitVec.toNat_ofNat]
        omega
      have hcount : (s.iCont + 1#8).toNat + k = s.nCont.toNat := by omega
      have hwhole : (u ++ v.take nb) ++ v.drop nb = m := by rw [List.append_assoc, List.take_append_drop, whole]
      rw [← hnext]
      exact ⟨_, hexec.trans (congrArg Host.Outcome.next (rxContinue_more (by exact hmore))), rfl, rfl,
        .inr ⟨hb, awaits_contFrames state hcount hwhole (length_drop_le rest) hlen hbytes⟩⟩

/-- The step in which a READ examines the message that carries the next frame. -/
theorem Awaits.step_deliver (h : Awaits nb m s (f :: fs)) (hcap : m.length ≤ 896) (hw : s.wiresClear) (hb : s.rxBusy = true)
    (rest : List Turn) (a : Option ReadAnswer) {msg : CanMsg} {q : List CanMsg} (hq : s.q = msg :: q)
    (hp : passes s msg = true) (hdata : msg.data = f) :
    ∃ t, step { s with turns := .rx a :: rest } = .next { t with turns := rest } ∧ t.wiresClear ∧ passes t = passes s ∧
      t.errCnt = s.errCnt ∧ t.q = q ∧ (Returned m t ∨ (t.rxBusy = true ∧ Awaits nb m t fs)) := by
  have hs : Awaits nb m { s with turns := .rx a :: rest } (f :: fs) := h.congr rfl rfl rfl rfl rfl
  obtain ⟨u, hexec, herr, hqueue, hafter⟩ := hs.exec_rxClass hcap hb q
  obtain ⟨_, _, hext, _, hid, _, _, hturns, _⟩ := exec_keeps hexec
  subst hdata
  refine ⟨endTurn u, ?step, ⟨rfl, rfl, rfl⟩, ?passes, herr, hqueue, ?after⟩
  case step =>
    refine (step_rx_deliver hw hb rest a hq hp).trans ((congrArg (mapNext endTurn) hexec).trans ?_)
    rw [mapNext_next, endTurn, hturns, List.tail_cons]
  case passes =>
    funext d
    rw [passes, passes, endTurn_rxExt, endTurn_rxId, hext, hid]
  case after =>
    exact hafter.imp (fun hret => { hret with }) fun ⟨hbusy, hmore⟩ => ⟨hbusy, hmore.congr rfl rfl rfl rfl rfl⟩

end

/-- A READ that, given these answers, examines the frames it needs, in order, as its passing messages (R131). -/
structure Reading (nb : Nat) (m : List Byte) (answers : List (Option ReadAnswer)) (s : State) : Prop where
  wires : s.wiresClear
  busy : s.rxBusy = true
  awaits : Awaits nb m s (((examined s.q answers).filter (passes s)).map CanMsg.data)

section
variable {nb : Nat} {m : List Byte} {s : State} {answers : List (Option ReadAnswer)}

/-- Each move of such a READ waits, fetches, skips a message, or accepts the next frame. -/
theorem Reading.step {a : Option ReadAnswer} (h : Reading nb m (a :: answers) s) (hcap : m.length ≤ 896) (ha : goodAnswer a)
    (rest : List Turn) : ∃ t, step { s with turns := .rx a :: rest } = .next { t with turns := rest } ∧ t.wiresClear ∧
      t.errCnt = s.errCnt ∧ (Returned m t ∨ Reading nb m answers t) := by
  obtain ⟨hw, hb, hawaits⟩ := h
  obtain hq | ⟨msg, q, hq⟩ : s.q = [] ∨ ∃ msg q, s.q = msg :: q := by cases s.q <;> simp
  all_goals rw [hq] at hawaits
  · cases a with
    | none => exact ⟨s, step_rx_wait hw hb hq rest, hw, rfl, .inr ⟨hw, hb, by rw [hq]; exact hawaits⟩⟩
    | some answer =>
      cases answer with
      | err => cases ha
      | batch ms =>
        exact ⟨{ s with q := ms, devLog := s.devLog ++ [.read (.batch ms)] }, step_rx_batch hw hb rest hq ha, hw, rfl,
          .inr ⟨hw, hb, hawaits.congr rfl rfl rfl rfl rfl⟩⟩
  · cases hp : passes s msg with
    | false =>
      rw [examined, List.filter_cons_of_neg (by simp [hp])] at hawaits
      exact ⟨{ s with q := q }, step_rx_skip hw hb rest a hq hp, hw, rfl, .inr ⟨hw, hb, hawaits.congr rfl rfl rfl rfl rfl⟩⟩
    | true =>
      rw [examined, List.filter_cons_of_pos hp, List.map_cons] at hawaits
      obtain ⟨t, hstep, hwt, hpasses, herr, hqueue, hafter⟩ := hawaits.step_deliver hcap hw hb rest a hq hp rfl
      rw [← hqueue, ← hpasses] at hafter
      exact ⟨t, hstep, hwt, herr, hafter.imp_right fun ⟨hbusy, hmore⟩ => ⟨hwt, hbusy, hmore⟩⟩

/-- All moves of such a READ: it returns the message, and the moves left then find its engine idle. -/
theorem Reading.run (h : Reading nb m answers s) (hcap : m.length ≤ 896) (hgood : ∀ a ∈ answers, goodAnswer a) :
    ∃ t, Host.Core.run Sys2Proof.core answers.length ({ s with turns := answers.map .rx } : State) = .next t ∧
      Returned m t ∧ t.errCnt = s.errCnt := by
  induction answers generalizing s with
  | nil => cases h.awaits
  | cons a answers ih =>
    obtain ⟨ha, hrest⟩ := List.forall_mem_cons.mp hgood
    obtain ⟨u, hstep, hw, herr, hret | hreading⟩ := h.step hcap ha (answers.map .rx)
    · exact ⟨_, (run_succ hstep).trans (run_rx_idle answers hw hret.idle), { hret with }, herr⟩
    · obtain ⟨t, hrun, hret, herr'⟩ := ih hreading hrest
      exact ⟨t, (run_succ hstep).trans hrun, hret, herr'.trans herr⟩

end

/-- Settles O59: in S0 the frames needed are those of `segFrames`, and each move keeps the READ at those still to come. -/
theorem readReassemblesTheFrames : Obligations.ReadReassemblesTheFrames := by
  intro s nb m answers hw hb state hpos hnb hlen hgood hframes
  have hreading : Reading nb m answers s := ⟨hw, hb, hframes ▸ awaits_segFrames state hpos hlen⟩
  obtain ⟨t, hrun, hret, herr⟩ := hreading.run (by omega) hgood
  exact ⟨t, hrun, hret.res, hret.idle, hret.length, hret.bytes, herr⟩

end Sys2Proof.Machine
end

section
/-! PROOFS. No rule reads ERRCNT (41_seg_read.md R127). -/

namespace Sys2Proof.Machine

/-- A state with another ERRCNT and other data returned to the host. -/
def withErrCnt (e : Word) (d : List BusData) (s : State) : State := { s with errCnt := e, busOut := d }

/-- The second outcome is the first but for ERRCNT and the data returned to the host. -/
def SameButErrCnt (o o' : Out) : Prop := ∃ e d, o' = mapNext (withErrCnt e d) o

/-! A choice that does not see ERRCNT leaves two outcomes that differ only in it if each of its branches does. -/

namespace SameButErrCnt

theorem next {e : Word} {d : List BusData} {t : State} : SameButErrCnt (.next t) (.next (withErrCnt e d t)) := ⟨e, d, rfl⟩

theorem fault {r : Fault} : SameButErrCnt (.fault r) (.fault r) := ⟨0#32, [], rfl⟩

theorem refused {r : Refusal} : SameButErrCnt (.refused r) (.refused r) := ⟨0#32, [], rfl⟩

theorem ite {c : Prop} [Decidable c] {o o' p p' : Out} (ho : SameButErrCnt o o') (hp : SameButErrCnt p p') :
    SameButErrCnt (if c then o else p) (if c then o' else p') := by
  split
  · exact ho
  · exact hp

theorem nextIte {c : Prop} [Decidable c] {e : Word} {d : List BusData} {t u : State} :
    SameButErrCnt (.next (if c then t else u)) (.next (if c then withErrCnt e d t else withErrCnt e d u)) :=
  ⟨e, d, by split <;> rfl⟩

end SameButErrCnt

section
variable (e : Word) (d : List BusData) (s : State)

@[simp] theorem withErrCnt_iCont : (withErrCnt e d s).iCont = s.iCont := rfl
@[simp] theorem withErrCnt_nCont : (withErrCnt e d s).nCont = s.nCont := rfl
@[simp] theorem withErrCnt_txLen : (withErrCnt e d s).txLen = s.txLen := rfl
@[simp] theorem withErrCnt_mem : (withErrCnt e d s).mem = s.mem := rfl
@[simp] theorem withErrCnt_txFrame : (withErrCnt e d s).txFrame = s.txFrame := rfl
@[simp] theorem withErrCnt_txRet : (withErrCnt e d s).txRet = s.txRet := rfl
@[simp] theorem ctlAnswer_withErrCnt : ctlAnswer (withErrCnt e d s) = ctlAnswer s := rfl
@[simp] theorem writeAnswer_withErrCnt : writeAnswer (withErrCnt e d s) = writeAnswer s := rfl
@[simp] theorem readAnswer_withErrCnt : readAnswer (withErrCnt e d s) = readAnswer s := rfl
@[simp] theorem delivered_withErrCnt : delivered (withErrCnt e d s) = delivered s := rfl
@[simp] theorem select_withErrCnt : select (withErrCnt e d s) = select s := rfl

theorem openEngine_withErrCnt : openEngine (withErrCnt e d s) = withErrCnt e d (openEngine s) := by
  rw [openEngine, openEngine, ctlAnswer_withErrCnt]
  rcases ctlAnswer s with _ | _ | _ <;> rfl

theorem closeEngine_withErrCnt : closeEngine (withErrCnt e d s) = withErrCnt e d (closeEngine s) := by
  rw [closeEngine, closeEngine, ctlAnswer_withErrCnt]
  rcases ctlAnswer s with _ | _ | _ <;> rfl

theorem frameWrite_withErrCnt : frameWrite (withErrCnt e d s) = withErrCnt e d (frameWrite s) := by
  rw [frameWrite, frameWrite, withErrCnt_txFrame, writeAnswer_withErrCnt]
  split <;> rfl

theorem rxContinue_withErrCnt : rxContinue (withErrCnt e d s) = withErrCnt e d (rxContinue s) := by
  rw [rxContinue, rxContinue, withErrCnt_iCont, withErrCnt_nCont]
  split <;> rfl

theorem sameButErrCnt_execCmdOpen : SameButErrCnt (execCmdOpen s) (execCmdOpen (withErrCnt e d s)) :=
  .ite (c := ctlEngineMoves s) ⟨e, d, congrArg Host.Outcome.next (openEngine_withErrCnt e d s)⟩
    (.ite (c := openIllegal s) .next .next)

theorem sameButErrCnt_execCmdClose : SameButErrCnt (execCmdClose s) (execCmdClose (withErrCnt e d s)) :=
  .ite (c := ctlEngineMoves s) ⟨e, d, congrArg Host.Outcome.next (closeEngine_withErrCnt e d s)⟩
    (.ite (c := closeIllegal s) .next (.ite .next .next))

theorem sameButErrCnt_execCmdWrite : SameButErrCnt (execCmdWrite s) (execCmdWrite (withErrCnt e d s)) := by
  refine .ite (c := writeIllegal s) .next (.ite (c := s.isOpen = false) .next (.ite .next ?_))
  rw [withErrCnt_txLen, withErrCnt_mem]
  cases memRead .tx 0 s.txLen.toNat s.mem with
  | none => exact .fault
  | some _ => exact .next

theorem sameButErrCnt_execCmdRead : SameButErrCnt (execCmdRead s) (execCmdRead (withErrCnt e d s)) :=
  .ite (c := readIllegal s) .next (.ite .next .next)

theorem sameButErrCnt_execDevqFetch : SameButErrCnt (execDevqFetch s) (execDevqFetch (withErrCnt e d s)) := by
  rw [execDevqFetch, execDevqFetch, readAnswer_withErrCnt]
  rcases readAnswer s with _ | _ | ms
  · exact .next
  · exact .next
  · exact .ite .refused (.ite .next .next)

theorem sameButErrCnt_txSend (kind : TraceKind) (ctl : Byte) (n : Nat) {done : State → State}
    (hd : ∀ u, done (withErrCnt e d u) = withErrCnt e d (done u)) :
    SameButErrCnt (txSend kind ctl n done s) (txSend kind ctl n done (withErrCnt e d s)) := by
  rw [txSend, txSend, show memRead .tx (withErrCnt e d s).txOff.toNat n (withErrCnt e d s).mem =
    memRead .tx s.txOff.toNat n s.mem from rfl]
  cases memRead .tx s.txOff.toNat n s.mem with
  | none => exact .fault
  | some bytes =>
    have hsent : frameWrite { withErrCnt e d s with txFrame := some (ctl :: bytes), txRet := none } =
        withErrCnt e d (frameWrite { s with txFrame := some (ctl :: bytes), txRet := none }) :=
      frameWrite_withErrCnt e d { s with txFrame := some (ctl :: bytes), txRet := none }
    simp only [hsent, withErrCnt_txRet]
    generalize frameWrite { s with txFrame := some (ctl :: bytes), txRet := none } = sent
    rcases sent.txRet with _ | _ | _
    · exact .next
    · exact ⟨e, d, congrArg Host.Outcome.next (hd (emitTrace .tx kind (ctl :: bytes) (clearTxWires sent)))⟩
    · exact .next

theorem sameButErrCnt_rxAccept (kind : TraceKind) (off : Nat) {done : State → State}
    (hd : ∀ u, done (withErrCnt e d u) = withErrCnt e d (done u)) :
    SameButErrCnt (rxAccept kind off done s) (rxAccept kind off done (withErrCnt e d s)) := by
  rw [rxAccept, rxAccept, delivered_withErrCnt, withErrCnt_mem]
  cases memWrite .rx off (payload (delivered s)) s.mem with
  | none => exact .fault
  | some m => exact ⟨e, d, congrArg Host.Outcome.next (hd (emitTrace .rx kind (delivered s) { s with
      mem := m, rxLen := BitVec.ofNat 16 (off + (payload (delivered s)).length), rxFrame := none }))⟩

/-- Every instruction runs alike beside any ERRCNT; an anomaly counts on from it. -/
theorem sameButErrCnt_exec (i : Instr) : SameButErrCnt (exec i s) (exec i (withErrCnt e d s)) := by
  cases i with
  | cmdOpen => exact sameButErrCnt_execCmdOpen e d s
  | cmdClose => exact sameButErrCnt_execCmdClose e d s
  | cmdWrite => exact sameButErrCnt_execCmdWrite e d s
  | cmdRead => exact sameButErrCnt_execCmdRead e d s
  | cmdReserved | fltStatus | fltExtMismatch | fltIdMismatch | fltMatch => exact .next
  | txSingle | txContLast => exact sameButErrCnt_txSend e d s _ _ _ (done := txFinish) fun _ => rfl
  | txStart | txCont => exact sameButErrCnt_txSend e d s _ _ _ (done := txAdvance) fun _ => rfl
  | rxZeroLen | rxMalformed | rxOutOfSeq => exact .next (e := e + 1#32) (d := d)
  | rxSingle => exact sameButErrCnt_rxAccept e d s _ _ (done := complete .rx .ok) fun _ => rfl
  | rxStart n => exact sameButErrCnt_rxAccept e d s _ _ (done := rxBegin n) fun _ => rfl
  | rxCont => exact sameButErrCnt_rxAccept e d s _ _ (rxContinue_withErrCnt e d)
  | devqFetch => exact sameButErrCnt_execDevqFetch e d s
  | cantxFrame => exact ⟨e, d, congrArg Host.Outcome.next (frameWrite_withErrCnt e d s)⟩

theorem sameButErrCnt_runInstr (i : Instr) : SameButErrCnt (runInstr i s) (runInstr i (withErrCnt e d s)) := by
  obtain ⟨e', d', h⟩ := sameButErrCnt_exec e d s i
  rw [runInstr, runInstr, h]
  cases exec i s with
  | fault r => exact .fault
  | refused r => exact .refused
  | next u =>
    have hf : follow i (withErrCnt e' d' u) = follow i u := by cases i <;> rfl
    simp only [mapNext_next, hf]
    cases follow i u with
    | none => exact .next
    | some j => exact sameButErrCnt_exec e' d' u j

theorem sameButErrCnt_writeReg (r : Reg) (v : Word) : SameButErrCnt (writeReg r v s) (writeReg r v (withErrCnt e d s)) := by
  cases r with
  | cmd => exact sameButErrCnt_exec e d s (decodeCmd v)
  | status | txCount | rxLen | errCnt | rxFsm | qLevel => exact .fault
  | cfg => exact .nextIte
  | txId | rxId => exact .nextIte (c := cfgLocked s)
  | txLen => exact .nextIte (c := s.txBusy)
  | trace => exact .next

theorem sameButErrCnt_accessReg (r : Reg) (off : BitVec 12) (acc : Access) :
    SameButErrCnt (accessReg r off acc s) (accessReg r off acc (withErrCnt e d s)) := by
  cases acc with
  | r8 | r16 | w8 | w16 => exact .fault
  | r32 => exact .ite ⟨e, _, rfl⟩ .fault
  | w32 v => exact .ite (sameButErrCnt_writeReg e d s r v) .fault

theorem sameButErrCnt_readBuf8 (b : Buf) (off : BitVec 12) :
    SameButErrCnt (readBuf8 b off s) (readBuf8 b off (withErrCnt e d s)) := by
  refine .ite (c := readHazard b s) .fault ?_
  rw [withErrCnt_mem]
  cases Memory.read s.mem off.toNat with
  | none => exact .fault
  | some v => exact ⟨e, _, rfl⟩

theorem sameButErrCnt_readBuf32 (b : Buf) (off : BitVec 12) :
    SameButErrCnt (readBuf32 b off s) (readBuf32 b off (withErrCnt e d s)) := by
  refine .ite (c := readHazard b s) .fault ?_
  rw [withErrCnt_mem]
  rcases readWord_cases s.mem off.toNat with ⟨_, _, _, _, hb, _⟩ | ⟨hn, _⟩
  · rw [hb]; exact ⟨e, _, rfl⟩
  · rw [hn]; exact .fault

theorem sameButErrCnt_writeBuf (b : Buf) (off : BitVec 12) (v : List Byte) :
    SameButErrCnt (writeBuf b off v s) (writeBuf b off v (withErrCnt e d s)) := by
  cases b with
  | rx => exact .fault
  | tx => exact .ite (c := s.txBusy) .fault .next

theorem sameButErrCnt_accessBuf (b : Buf) (off : BitVec 12) (acc : Access) :
    SameButErrCnt (accessBuf b off acc s) (accessBuf b off acc (withErrCnt e d s)) := by
  cases acc with
  | r8 => exact sameButErrCnt_readBuf8 e d s b off
  | w8 v => exact sameButErrCnt_writeBuf e d s b off [v]
  | r16 | w16 => exact .fault
  | r32 => exact .ite (sameButErrCnt_readBuf32 e d s b off) .fault
  | w32 v => exact .ite (sameButErrCnt_writeBuf e d s b off (wordBytes v)) .fault

theorem sameButErrCnt_hostAccess (off : BitVec 12) (acc : Access) :
    SameButErrCnt (hostAccess off acc s) (hostAccess off acc (withErrCnt e d s)) := by
  rw [hostAccess, hostAccess]
  cases region off with
  | reg r => exact sameButErrCnt_accessReg e d s r off acc
  | buf b => exact sameButErrCnt_accessBuf e d s b off acc
  | reserved => exact .fault

theorem sameButErrCnt_perform : SameButErrCnt (perform s) (perform (withErrCnt e d s)) := by
  rw [perform, perform, select_withErrCnt]
  cases select s with
  | idle => exact .next
  | run i => exact sameButErrCnt_runInstr e d s i
  | access off acc => exact sameButErrCnt_hostAccess e d s off acc
  | reset => exact ⟨0#32, d, rfl⟩

end

/-- Settles O45: the step runs alike beside any ERRCNT, the end of it included. -/
theorem errCntIsNeverRead : Obligations.ErrCntIsNeverRead := by
  intro s t e h
  obtain ⟨u, hu, rfl⟩ := mapNext_eq_next.mp h
  obtain ⟨e', d', hp⟩ := sameButErrCnt_perform e s.busOut s
  rw [hu] at hp
  exact ⟨endTurn (withErrCnt e' d' u), congrArg (mapNext endTurn) hp, rfl⟩

end Sys2Proof.Machine
end

section
/-! PROOFS. The adapter (42_can_dispatch.md R134 to R146): OPEN and CLOSE, the batch fetch, the filter's verdicts and the frame
transmit. -/

namespace Sys2Proof.Machine

/-! ## OPEN and CLOSE (R134, R136) -/

section
variable {s : State} {rest : List Turn}

theorem ctlEngineMoves_host {off : BitVec 12} {acc : Access} (ht : s.turns = .host off acc :: rest) : ctlEngineMoves s = false := by
  rw [ctlEngineMoves, ht]

theorem exec_cmdOpen_host {off : BitVec 12} {acc : Access} (ht : s.turns = .host off acc :: rest) :
    exec .cmdOpen s = .next (if openIllegal s then raiseCmdError s else issue .ctl s) := by
  rw [exec, execCmdOpen, ctlEngineMoves_host ht, if_neg Bool.false_ne_true]
  split <;> rfl

theorem exec_cmdClose_host {off : BitVec 12} {acc : Access} (ht : s.turns = .host off acc :: rest) :
    exec .cmdClose s = .next (if closeIllegal s then raiseCmdError s
      else if s.isOpen then issue .ctl s else complete .ctl .notOpen (issue .ctl s)) := by
  rw [exec, execCmdClose, ctlEngineMoves_host ht, if_neg Bool.false_ne_true]
  split
  · rfl
  · split <;> rfl

section
variable {a : Option Answer} (ht : s.turns = .ctl a :: rest)
include ht

theorem ctlEngineMoves_ctl : ctlEngineMoves s = true := by
  rw [ctlEngineMoves, ht]

theorem ctlAnswer_of_turns : ctlAnswer s = a := by
  rw [ctlAnswer, ht]

theorem exec_cmdOpen_engine : exec .cmdOpen s = .next (openEngine s) := by
  rw [exec, execCmdOpen, if_pos (ctlEngineMoves_ctl ht)]

theorem exec_cmdClose_engine : exec .cmdClose s = .next (closeEngine s) := by
  rw [exec, execCmdClose, if_pos (ctlEngineMoves_ctl ht)]

end

/-- A CLOSE that completes at issue leaves the CTL engine idle, as it was. -/
theorem complete_issue_ctl (hb : s.ctlBusy = false) (r : Res) : complete .ctl r (issue .ctl s) = { s with ctlRes := r } := by
  simp only [complete, issue, hb]

end

/-- Settles O12: the issue step by the legality of the command, the engine step by the device's answer. -/
theorem openCommand : Obligations.OpenCommand := by
  intro s rest
  refine ⟨fun v => (commandCodeTable v).1, fun off acc ht => ?issue, fun ht => ?wait, fun ht => ?error, fun ht => ?ok⟩
  case issue =>
    rw [exec_cmdOpen_host ht]
    refine ⟨fun hill => ?_, fun ho hc hx hr => ?_⟩
    · rw [if_pos ((openIllegal_iff s).mpr hill)]
      rfl
    · rw [if_neg (by simp [openIllegal_iff, ho, hc, hx, hr])]
      rfl
  all_goals
    simp only [exec_cmdOpen_engine ht, openEngine, ctlAnswer_of_turns ht, complete, logDevice]

/-- Settles O13: the issue step by its three checks, the engine step by the device's answer. -/
theorem closeCommand : Obligations.CloseCommand := by
  intro s rest
  refine ⟨fun v => (commandCodeTable v).2.1, fun off acc ht => ?issue, fun ht => ?wait, fun ht => ?ok, fun ht => ?error⟩
  case issue =>
    rw [exec_cmdClose_host ht]
    refine ⟨fun hill => ?illegal, fun hc hx hr ho => ?session, fun hc hx hr ho => ?closed⟩
    case illegal =>
      rw [if_pos ((closeIllegal_iff s).mpr hill)]
      rfl
    all_goals rw [if_neg (by simp [closeIllegal_iff, hc, hx, hr])]
    case session =>
      rw [if_pos ho]
      rfl
    case closed => rw [if_neg (by simp [ho]), complete_issue_ctl hc]
  all_goals
    simp only [exec_cmdClose_engine ht, closeEngine, ctlAnswer_of_turns ht, complete, logDevice]

/-! ## The frame transmit (R146) -/

/-- Settles O19: one FrameWrite, whose message holds the frame cut to the payload width. -/
theorem canFrameTransmit : Obligations.CanFrameTransmit := by
  intro s rest f a hf ht
  refine ⟨frameMsg f s, congrArg Host.Outcome.next (frameWrite_answered hf ht), rfl, rfl, rfl, ?_, ?_, ?_⟩
  · exact List.length_take.trans (Nat.min_comm _ _)
  · exact fun k hk => List.getElem?_take_of_lt hk
  · exact fun hlen => List.take_of_length_le hlen

/-! ## The filter's verdicts (R140 to R145) -/

theorem passes_eq_false_iff (s : State) (m : CanMsg) :
    passes s m = false ↔ m.status = true ∨ m.ext ≠ s.rxExt ∨ m.id ≠ s.rxId := by
  simp [passes, or_iff_not_imp_left]

theorem popQueue_cons {s : State} {m : CanMsg} {q : List CanMsg} (hq : s.q = m :: q) : popQueue s = { s with q := q } := by
  rw [popQueue, hq, List.tail_cons]

/-- Settles O26: the verdict of each row of the filter's table, and the pop that every skip is. -/
theorem filterSkipsOnlyPop : Obligations.FilterSkipsOnlyPop := by
  intro s m q hq
  obtain ⟨_, _, hstatus, hext, hid, _⟩ := filterClassTable s m
  have hpop : Host.Outcome.next (popQueue s) = (.next { s with q := q } : Out) := congrArg Host.Outcome.next (popQueue_cons hq)
  refine ⟨hstatus, hext, hid, fun e d => ⟨hpop, hpop, hpop⟩, fun a rest ht hb hw hskip => ?_⟩
  have hstep := step_rx_skip hw hb rest a hq ((passes_eq_false_iff s m).mpr hskip)
  rw [← ht] at hstep
  exact hstep

/-- Settles O27: the last row of the filter's table, and the payload delivered. -/
theorem filterMatchDelivers : Obligations.FilterMatchDelivers := by
  intro s m q e d hq
  obtain ⟨_, _, _, _, _, hmatch⟩ := filterClassTable s m
  exact ⟨hmatch, exec_fltMatch hq e d⟩

/-! ## The batch fetch (R138, R120) -/

theorem select_rx_fetch {s : State} {a : Option ReadAnswer} {rest : List Turn} (ht : s.turns = .rx a :: rest)
    (hw : s.wiresClear) (hb : s.rxBusy = true) (hq : s.q = []) : select s = .run .devqFetch := by
  simp only [select, ht, selectRx, hb, hw.1, hq, if_true]

theorem readAnswer_of_turns {s : State} {a : Option ReadAnswer} {rest : List Turn} (ht : s.turns = .rx a :: rest) :
    readAnswer s = a := by
  rw [readAnswer, ht]

/-- A batch of the device contract fills the queue (R138). -/
theorem execDevqFetch_batch {s : State} {ms : List CanMsg} (ha : readAnswer s = some (.batch ms)) (hne : ms ≠ [])
    (hok : batchOk ms = true) : execDevqFetch s = .next { s with q := ms, devLog := s.devLog ++ [.read (.batch ms)] } := by
  simp only [execDevqFetch, ha, hok, hne, Bool.true_eq_false, if_false, logDevice]

/-- Settles O28: outside a READ the move is only spent; in one the device's answer tells what the fetch does. -/
theorem batchFetch : Obligations.BatchFetch := by
  intro s rest
  refine ⟨fun a ht hw hb => ?idle, fun a ht hw hb hq => select_rx_fetch ht hw hb hq, fun ht => ?wait, fun ht => ?error,
    fun ht => ?empty, fun ms ht hne hlen hpay => ?batch⟩
  case idle => rw [step_rx_idle ht hb, endTurn_of_turns hw ht]
  case wait => rw [exec, execDevqFetch, readAnswer_of_turns ht]
  case batch => exact execDevqFetch_batch (readAnswer_of_turns ht) hne ((batchOk_iff ms).mpr ⟨hlen, hpay⟩)
  all_goals
    rw [exec, execDevqFetch, readAnswer_of_turns ht]
    rfl

end Sys2Proof.Machine
end

section
/-! PROOFS. The exceptions (60_exceptions.md): the accesses that are bus errors (R157), the register writes that raise CmdError
(R155), and the sticky bit CMD_ERR (R154). -/

namespace Sys2Proof.Machine

/-! ## CMD_ERR is sticky (R154) -/

theorem RegWrite.keeps_cmdErr {s t : State} (h : RegWrite s t) (hs : s.cmdErr = true) : t.cmdErr = true := by
  cases h with
  | error => rfl
  | cfg | txId | rxId | txLen | trace => exact hs

/-- No host access clears CMD_ERR (R154). -/
theorem hostAccess_keeps_cmdErr {off : BitVec 12} {acc : Access} {s t : State} (h : hostAccess off acc s = .next t)
    (hs : s.cmdErr = true) : t.cmdErr = true := by
  rcases hostAccess_next h with ⟨_, _, d, rfl⟩ | ⟨bs, _, _, _, _, rfl⟩ | ⟨v, _, _, hx⟩ | ⟨_, hr⟩
  · exact hs
  · exact hs
  · exact (exec_keeps hx).cmdErr hs
  · exact hr.keeps_cmdErr hs

/-- Settles O43: neither an engine's operations nor a host access clear the bit. -/
theorem cmdErrIsSticky : Obligations.CmdErrIsSticky := by
  intro s t u rest ht hu hs h
  rcases step_next h with ⟨_, rfl⟩ | ⟨i, s', _, hr, rfl⟩ | ⟨off, acc, s', _, ha, rfl⟩ | ⟨hsel, _⟩
  · exact hs
  · exact (runInstr_keeps hr).cmdErr hs
  · exact (endTurn_cmdErr s').trans (hostAccess_keeps_cmdErr ha hs)
  · obtain ⟨rest', hreset⟩ := turns_of_select_reset hsel
    cases ht.symm.trans hreset
    exact absurd rfl hu

/-! ## Outcomes that are faults in exactly the cases of a table (R156, R157) -/

/-- An outcome that is a fault in the cases of `c`, and a next state in all others. -/
def FaultsExactly (c : Prop) (o : Out) : Prop := (c → ∃ r, o = .fault r) ∧ (¬c → ∃ t, o = .next t)

namespace FaultsExactly

theorem fault {c : Prop} (r : Fault) (h : c) : FaultsExactly c (.fault r) := ⟨fun _ => ⟨r, rfl⟩, fun hc => absurd h hc⟩

theorem next {c : Prop} (t : State) (h : ¬c) : FaultsExactly c (.next t) := ⟨fun hc => absurd hc h, fun _ => ⟨t, rfl⟩⟩

/-- The alignment check that comes before a word access (R55). -/
theorem aligned {c : Prop} {off : BitVec 12} {o : Out} (h : off.toNat % 4 = 0 → FaultsExactly c o) :
    FaultsExactly (off.toNat % 4 ≠ 0 ∨ c) (if aligned4 off then o else .fault .badWidth) := by
  by_cases ha : aligned4 off = true
  · rw [if_pos ha]
    rw [aligned4_iff] at ha
    simpa [ha] using h ha
  · rw [if_neg ha]
    rw [aligned4_iff] at ha
    exact fault .badWidth (.inl ha)

end FaultsExactly

/-! ## The buffers' part of the table -/

theorem faultsExactly_readBuf8 (b : Buf) (off : BitVec 12) (s : State) :
    FaultsExactly (readHazard b s = true ∨ Memory.read s.mem off.toNat = none) (readBuf8 b off s) := by
  rcases readBuf8_cases b off s with ⟨hz, e⟩ | ⟨_, hn, e⟩ | ⟨v, hz, hv, e⟩ <;> rw [e]
  · exact .fault _ (.inl hz)
  · exact .fault _ (.inr hn)
  · exact .next _ (by simp [hz, hv])

theorem faultsExactly_readBuf32 (b : Buf) (off : BitVec 12) (s : State) :
    FaultsExactly (readHazard b s = true ∨ ∃ k, k < 4 ∧ Memory.read s.mem (off.toNat + k) = none) (readBuf32 b off s) := by
  rcases readBuf32_cases b off s with ⟨hz, e⟩ | ⟨_, hn, e⟩ | ⟨b0, b1, b2, b3, hz, h0, h1, h2, h3, e⟩ <;> rw [e]
  · exact .fault _ (.inl hz)
  · exact .fault _ (.inr hn)
  · refine .next _ ?_
    rintro (hz' | ⟨k, hk, hn⟩)
    · cases hz.symm.trans hz'
    · interval_cases k <;> simp [h0, h1, h2, h3] at hn

theorem faultsExactly_writeBuf (b : Buf) (off : BitVec 12) (v : List Byte) (s : State) :
    FaultsExactly (b = .rx ∨ s.txBusy = true) (writeBuf b off v s) := by
  rcases writeBuf_cases b off v s with ⟨hb, e⟩ | ⟨_, ht, e⟩ | ⟨hb, ht, e⟩ <;> rw [e]
  · exact .fault _ (.inl hb)
  · exact .fault _ (.inr ht)
  · exact .next _ (by simp [hb, ht])

/-- The rows of the bus-error table that speak of an access to a buffer (R157). -/
def bufErrorCase (b : Buf) (off : BitVec 12) (acc : Access) (s : State) : Prop :=
  acc.bytes = 2 ∨ (acc.bytes = 4 ∧ off.toNat % 4 ≠ 0) ∨ (acc.isWrite = true ∧ (b = .rx ∨ s.txBusy = true)) ∨
  (acc.isWrite = false ∧ (readHazard b s = true ∨ ∃ k, k < acc.bytes ∧ Memory.read s.mem (off.toNat + k) = none))

theorem faultsExactly_accessBuf (b : Buf) (off : BitVec 12) (acc : Access) (s : State) :
    FaultsExactly (bufErrorCase b off acc s) (accessBuf b off acc s) := by
  cases acc with
  | r16 | w16 => exact .fault _ (.inl rfl)
  | r8 => simpa [accessBuf, bufErrorCase, Access.bytes, Access.isWrite] using faultsExactly_readBuf8 b off s
  | w8 v => simpa [accessBuf, bufErrorCase, Access.bytes, Access.isWrite] using faultsExactly_writeBuf b off [v] s
  | r32 => simpa [accessBuf, bufErrorCase, Access.bytes, Access.isWrite] using
      FaultsExactly.aligned fun _ => faultsExactly_readBuf32 b off s
  | w32 v => simpa [accessBuf, bufErrorCase, Access.bytes, Access.isWrite] using
      FaultsExactly.aligned fun _ => faultsExactly_writeBuf b off (wordBytes v) s

/-! ## The registers' part of the table -/

/-- The registers that take no write (R21). -/
def readOnlyRegs : List Reg := [.status, .txCount, .rxLen, .errCnt, .rxFsm, .qLevel]

/-- The offsets of the registers that take no write (R21, R157). -/
theorem regAt_mem_readOnlyRegs_iff : ∀ k < 12, regAt k ∈ readOnlyRegs ↔
    4 * k = 0x004 ∨ 4 * k = 0x018 ∨ 4 * k = 0x01C ∨ 4 * k = 0x020 ∨ 4 * k = 0x024 ∨ 4 * k = 0x02C := by decide

theorem regAt_eq_cmd_iff : ∀ k < 12, regAt k = .cmd ↔ k = 0 := by decide

theorem faultsExactly_writeReg {r : Reg} (v : Word) (s : State) (hr : r ≠ .cmd) :
    FaultsExactly (r ∈ readOnlyRegs) (writeReg r v s) := by
  cases r with
  | cmd => exact absurd rfl hr
  | status | txCount | rxLen | errCnt | rxFsm | qLevel => exact .fault _ (by decide)
  | cfg | txId | rxId | txLen | trace => exact .next _ (by decide)

/-- The rows of the bus-error table that speak of an access to a register (R157). -/
def regErrorCase (r : Reg) (off : BitVec 12) (acc : Access) : Prop :=
  acc.bytes ≠ 4 ∨ off.toNat % 4 ≠ 0 ∨ (acc.isWrite = true ∧ r ∈ readOnlyRegs)

/-- An access to a register that issues no command. -/
theorem faultsExactly_accessReg {r : Reg} (off : BitVec 12) {acc : Access} (s : State) 
    (hcmd : ∀ v, acc = .w32 v → off.toNat % 4 = 0 → r ≠ .cmd) :
    FaultsExactly (regErrorCase r off acc) (accessReg r off acc s) := by
  cases acc with
  | r8 | r16 | w8 | w16 => exact .fault _ (.inl (by simp [Access.bytes]))
  | r32 =>
    simpa [accessReg, regErrorCase, Access.bytes, Access.isWrite] using
      FaultsExactly.aligned (off := off) fun _ => FaultsExactly.next (c := False) (busReturn (.word (readReg r s)) s) id
  | w32 v => simpa [accessReg, regErrorCase, Access.bytes, Access.isWrite] using
      FaultsExactly.aligned fun ha => faultsExactly_writeReg v s (hcmd v rfl ha)

/-! ## The whole table (R157) -/

theorem busErrorCase_reg {off : BitVec 12} (hlo : off.toNat < 0x030) (acc : Access) (s : State) :
    busErrorCase s off acc ↔ regErrorCase (regAt (off.toNat / 4)) off acc := by
  have hro := regAt_mem_readOnlyRegs_iff (off.toNat / 4) (by omega)
  by_cases ha : off.toNat % 4 = 0
  · rw [Nat.mul_div_cancel' (Nat.dvd_of_mod_eq_zero ha)] at hro
    have hout : ¬0x400 ≤ off.toNat ∧ ¬0x800 ≤ off.toNat ∧ ¬0x030 ≤ off.toNat ∧ ¬0x780 ≤ off.toNat ∧ ¬0xB80 ≤ off.toNat := by omega
    simp [busErrorCase, regErrorCase, hro, hlo, ha, hout]
  · exact iff_of_true (.inr (.inl ⟨hlo, .inr ha⟩)) (.inr (.inl ha))

theorem busErrorCase_txBuf {off : BitVec 12} (hlo : 0x400 ≤ off.toNat) (hhi : off.toNat < 0x780) (acc : Access) (s : State) :
    busErrorCase s off acc ↔ bufErrorCase .tx off acc s := by
  have hreg : ¬off.toNat < 0x030 := by omega
  have hout : ¬((0x030 ≤ off.toNat ∧ off.toNat < 0x400) ∨ (0x780 ≤ off.toNat ∧ off.toNat < 0x800) ∨ 0xB80 ≤ off.toNat) := by omega
  have hro : off.toNat ≠ 0x004 ∧ off.toNat ≠ 0x018 ∧ off.toNat ≠ 0x01C ∧ off.toNat ≠ 0x020 ∧ off.toNat ≠ 0x024 ∧
      off.toNat ≠ 0x02C := by omega
  have hrx : ¬(0x800 ≤ off.toNat ∧ off.toNat < 0xB80) := by omega
  simp [busErrorCase, bufErrorCase, readHazard, hreg, hout, hro, hrx, hlo, hhi, or_assoc]

theorem busErrorCase_rxBuf {off : BitVec 12} (hlo : 0x800 ≤ off.toNat) (hhi : off.toNat < 0xB80) (acc : Access) (s : State) :
    busErrorCase s off acc ↔ bufErrorCase .rx off acc s := by
  have hreg : ¬off.toNat < 0x030 := by omega
  have hout : ¬((0x030 ≤ off.toNat ∧ off.toNat < 0x400) ∨ (0x780 ≤ off.toNat ∧ off.toNat < 0x800) ∨ 0xB80 ≤ off.toNat) := by omega
  have htx : ¬(0x400 ≤ off.toNat ∧ off.toNat < 0x780) := by omega
  simp [busErrorCase, bufErrorCase, readHazard, hreg, hout, htx, hlo, hhi, or_assoc, and_or_left]

/-- An access that issues no command is a fault in exactly the cases of the table. -/
theorem faultsExactly_hostAccess {off : BitVec 12} {acc : Access} (s : State) (hcmd : ∀ v, acc = .w32 v → off ≠ 0x000#12) :
    FaultsExactly (busErrorCase s off acc) (hostAccess off acc s) := by
  unfold hostAccess
  rcases region_cases off with ⟨hlo, hr⟩ | ⟨hlo, hhi, hr⟩ | ⟨hlo, hhi, hr⟩ | ⟨hout, hr⟩ <;> rw [hr]
  · rw [busErrorCase_reg hlo]
    refine faultsExactly_accessReg off s fun v hv ha hc => hcmd v hv (BitVec.eq_of_toNat_eq ?_)
    have hzero := (regAt_eq_cmd_iff (off.toNat / 4) (by omega)).mp hc
    rw [BitVec.toNat_ofNat]
    omega
  · rw [busErrorCase_txBuf hlo hhi]
    exact faultsExactly_accessBuf .tx off acc s
  · rw [busErrorCase_rxBuf hlo hhi]
    exact faultsExactly_accessBuf .rx off acc s
  · exact .fault _ (.inl hout)

/-- A word write at CMD is no bus error (R157). -/
theorem not_busErrorCase_cmd (v : Word) (s : State) : ¬busErrorCase s 0x000#12 (.w32 v) := by
  rw [busErrorCase_reg (by decide)]
  simp [regErrorCase, Access.bytes, regAt, readOnlyRegs]

/-- Settles O29: region by region, the checks of an access are the rows of the table; a word write at CMD meets none of them. -/
theorem busErrorTable : Obligations.BusErrorTable := by
  intro s off acc
  refine ⟨fun herr => ?_, fun hok hcmd => (faultsExactly_hostAccess s hcmd).2 hok, ?_⟩
  · refine (faultsExactly_hostAccess s ?_).1 herr
    rintro v rfl rfl
    exact not_busErrorCase_cmd v s herr
  · rintro v _ rfl
    exact hostAccess_writeReg s v .cmd rfl rfl

/-! ## The illegal register writes (R155) -/

/-- An outcome that is CmdError and nothing else in the cases of `c` (R154), and that leaves CMD_ERR as it was in all others. -/
def RaisesExactly (c : Prop) (s : State) (o : Out) : Prop :=
  (c → o = .next (raiseCmdError s)) ∧ (¬c → ∀ t, o = .next t → t.cmdErr = s.cmdErr)

namespace RaisesExactly
variable {c : Prop} {s : State}

theorem raise (h : c) : RaisesExactly c s (.next (raiseCmdError s)) := ⟨fun _ => rfl, fun hc => absurd h hc⟩

theorem next {t : State} (h : ¬c) (ht : t.cmdErr = s.cmdErr) : RaisesExactly c s (.next t) :=
  ⟨fun hc => absurd hc h, fun _ _ he => by cases he; exact ht⟩

theorem fault {r : Fault} (h : ¬c) : RaisesExactly c s (.fault r) := ⟨fun hc => absurd hc h, fun _ _ he => by cases he⟩

/-- The shape of every check of R155: CmdError, or the effect. -/
theorem ite {b : Bool} {t : State} (ht : t.cmdErr = s.cmdErr) :
    RaisesExactly (b = true) s (.next (if b then raiseCmdError s else t)) := by
  cases b with
  | true => exact raise rfl
  | false => exact next Bool.false_ne_true ht

end RaisesExactly

/-- The commands that a state refuses (R155). -/
def cmdIllegal (i : Instr) (s : State) : Prop :=
  match i with
  | .cmdOpen => openIllegal s = true
  | .cmdClose => closeIllegal s = true
  | .cmdWrite => writeIllegal s = true
  | .cmdRead => readIllegal s = true
  | .cmdReserved _ => True
  | _ => False

theorem raisesExactly_execCmdWrite (s : State) : RaisesExactly (writeIllegal s = true) s (execCmdWrite s) := by
  rcases execCmdWrite_cases s with ⟨hi, e⟩ | ⟨hi, _, e⟩ | ⟨hi, _, _, e⟩ | ⟨hi, _, _, _, e⟩ | ⟨hi, _, _, _, e⟩ <;> rw [e]
  · exact .raise hi
  · exact .next (by simp [hi]) rfl
  · exact .next (by simp [hi]) rfl
  · exact .fault (by simp [hi])
  · exact .next (by simp [hi]) rfl

theorem raisesExactly_execCmdRead (s : State) : RaisesExactly (readIllegal s = true) s (execCmdRead s) := by
  unfold execCmdRead
  split
  · next hi => exact .raise hi
  · next hi => split <;> exact .next hi rfl

/-- A command word of the host raises CmdError in exactly the states that refuse its command (R84, R155). -/
theorem raisesExactly_exec_decodeCmd {off : BitVec 12} {acc : Access} {s : State} {rest : List Turn}
    (ht : s.turns = .host off acc :: rest) (v : Word) :
    RaisesExactly (cmdIllegal (decodeCmd v) s) s (exec (decodeCmd v) s) := by
  rcases decodeCode_cases (v.extractLsb' 0 8) with ⟨_, e⟩ | ⟨_, e⟩ | ⟨_, e⟩ | ⟨_, e⟩ | ⟨_, _, _, _, e⟩ <;>
    rw [show decodeCmd v = _ from e]
  · rw [exec_cmdOpen_host ht]
    exact .ite rfl
  · rw [exec_cmdClose_host ht]
    exact .ite (by split <;> rfl)
  · exact raisesExactly_execCmdWrite s
  · exact raisesExactly_execCmdRead s
  · exact .raise trivial

/-- The register writes that a state refuses (R155). -/
def regWriteIllegal (r : Reg) (v : Word) (s : State) : Prop :=
  match r with
  | .cmd => cmdIllegal (decodeCmd v) s
  | .cfg => (cfgLocked s || !sizeLegal (v.extractLsb' 0 4)) = true
  | .txId => cfgLocked s = true
  | .rxId => cfgLocked s = true
  | .txLen => s.txBusy = true
  | _ => False

/-- A register write of the host raises CmdError in exactly the cases in which the model refuses it. -/
theorem raisesExactly_writeReg {off : BitVec 12} {acc : Access} {s : State} {rest : List Turn}
    (ht : s.turns = .host off acc :: rest) (r : Reg) (v : Word) : RaisesExactly (regWriteIllegal r v s) s (writeReg r v s) := by
  cases r with
  | cmd => exact raisesExactly_exec_decodeCmd ht v
  | cfg | txId | rxId | txLen => exact .ite rfl
  | trace => exact .next id rfl
  | status | txCount | rxLen | errCnt | rxFsm | qLevel => exact .fault id

/-- The rows of CMD in R155's table are the model's checks of the command. -/
theorem cmdErrorCase_cmd (s : State) (v : Word) : cmdErrorCase s 0x000#12 v ↔ cmdIllegal (decodeCmd v) s := by
  have hcode : v.toNat % 256 = (v.extractLsb' 0 8).toNat := by
    rw [extractLsb'_zero_eq_ofNat, BitVec.toNat_ofNat]
  rcases decodeCode_cases (v.extractLsb' 0 8) with ⟨hc, e⟩ | ⟨hc, e⟩ | ⟨hc, e⟩ | ⟨hc, e⟩ | ⟨h1, h2, h3, h4, e⟩ <;>
    rw [show decodeCmd v = _ from e, cmdErrorCase, hcode]
  · simp [hc, cmdIllegal, openIllegal_iff]
  · simp [hc, cmdIllegal, closeIllegal_iff]
  · simp [hc, cmdIllegal, writeIllegal_iff]
  · simp [hc, cmdIllegal, readIllegal_iff]
  · have hne (n : Byte) (h : v.extractLsb' 0 8 ≠ n) : (v.extractLsb' 0 8).toNat ≠ n.toNat := fun he => h (BitVec.eq_of_toNat_eq he)
    exact iff_of_true (.inl ⟨rfl, hne _ h1, hne _ h2, hne _ h3, hne _ h4⟩) trivial

/-- The rows of CFG in R155's table are the model's checks of its write (R24, R25). -/
theorem cmdErrorCase_cfg (s : State) (v : Word) :
    cmdErrorCase s 0x008#12 v ↔ (cfgLocked s || !sizeLegal (v.extractLsb' 0 4)) = true := by
  rw [Bool.or_eq_true, cfgLocked_iff, Bool.not_eq_true', ← Bool.not_eq_true, sizeLegal_iff, extractLsb'_zero_eq_ofNat,
    BitVec.toNat_ofNat, not_and_or, Nat.not_le, Nat.not_le]
  simp [cmdErrorCase]

/-- R155's table is the model's check of each register's write. -/
theorem cmdErrorCase_iff {off : BitVec 12} (hlo : off.toNat < 0x030) (ha : off.toNat % 4 = 0) (s : State) (v : Word) :
    cmdErrorCase s off v ↔ regWriteIllegal (regAt (off.toNat / 4)) v s := by
  obtain ⟨k, hk, rfl⟩ : ∃ k < 12, off = BitVec.ofNat 12 (4 * k) := by
    refine ⟨off.toNat / 4, by omega, BitVec.eq_of_toNat_eq ?_⟩
    rw [BitVec.toNat_ofNat]
    omega
  match k, hk with
  | 0, _ => exact cmdErrorCase_cmd s v
  | 2, _ => exact cmdErrorCase_cfg s v
  | 1, _ | 3, _ | 4, _ | 5, _ | 6, _ | 7, _ | 8, _ | 9, _ | 10, _ | 11, _ =>
    simp [cmdErrorCase, regWriteIllegal, regAt, cfgLocked_iff]

theorem region_reg {off : BitVec 12} (hlo : off.toNat < 0x030) : region off = .reg (regAt (off.toNat / 4)) := if_pos hlo

/-- Settles O30: an aligned word write at a register is the register's write, refused in the rows of the table. -/
theorem cmdErrorTable : Obligations.CmdErrorTable := by
  intro s off v rest ht hlo ha
  rw [hostAccess_writeReg s v _ (region_reg hlo) ((aligned4_iff off).mpr ha), cmdErrorCase_iff hlo ha]
  exact raisesExactly_writeReg ht _ v

end Sys2Proof.Machine
end

section
/-! PROOFS. The reset move (70_reset_and_hazards.md R174). -/

namespace Sys2Proof.Machine

/-- The wires of a state just reset carry nothing, so the end of the step only spends the reset move. -/
theorem endTurn_powerOn {s : State} {u : Turn} {rest : List Turn} (ht : s.turns = u :: rest) :
    endTurn (powerOn s) = { State.reset with turns := rest, devLog := s.devLog, busOut := s.busOut } :=
  endTurn_of_turns (inv_powerOn s).wires ht

/-- Settles O39: the move puts every field at its reset value, and the end of the step spends it. -/
theorem resetMove : Obligations.ResetMove := by
  intro s rest ht
  rw [step_reset ht, endTurn_powerOn ht]

end Sys2Proof.Machine
end
